-- ==== Sys2Proof/Word.lean ====
section
/-! DEFINITION. The word and byte types, and the one map from integers to words (spec/00_scope.md R7). -/

namespace Sys2Proof

/-- One byte of memory (R22). -/
abbrev Byte := BitVec 8

/-- A word: 32 bits (R7). `u(v)` of the spec is `v.toNat`, `s(v)` is `v.toInt`. -/
abbrev Word := BitVec 32

/-- `wrap32(z)`: the word `w` with `u(w) = z mod 2^32`, for any integer `z` (R7). -/
def wrap32 (z : Int) : Word := BitVec.ofInt 32 z

end Sys2Proof
end

