-- ==== Sys2Proof/Syntax.lean ====
section
/-! DEFINITION. The instructions: one constructor per row of spec/opcode_table.json, in the table's order. An operand is the
integer the rules compute with (a byte count, a byte offset already scaled and sign-extended, an exit code: spec/30_encoding.md
R64 to R70). The bits a row ignores (R72) are no part of an instruction. -/

namespace Sys2Proof

inductive Instr where
  /-- EXIT (R111): `code` is `sext_8(w[7:0])`. -/
  | exit (code : Int)
  /-- SWAP (R112): `offA`, `offB` are the byte offsets `4 * sext_12(w[23:12])`, `4 * sext_12(w[11:0])` (R67). -/
  | swap (offA offB : Int)
  /-- reserved sub-opcode 0x2 of family 0x0 (R116). -/
  | miscReserved2
  /-- reserved sub-opcode 0x3 of family 0x0 (R116). -/
  | miscReserved3
  /-- INPUT (R113). -/
  | input
  /-- STINPUT (R114): `max` is `w[23:0]`, a byte count (R70). -/
  | stinput (max : Nat)
  /-- reserved sub-opcode 0x6 of family 0x0 (R116). -/
  | miscReserved6
  /-- reserved sub-opcode 0x7 of family 0x0 (R116). -/
  | miscReserved7
  /-- reserved sub-opcode 0x8 of family 0x0 (R116). -/
  | miscReserved8
  /-- reserved sub-opcode 0x9 of family 0x0 (R116). -/
  | miscReserved9
  /-- reserved sub-opcode 0xA of family 0x0 (R116). -/
  | miscReservedA
  /-- reserved sub-opcode 0xB of family 0x0 (R116). -/
  | miscReservedB
  /-- reserved sub-opcode 0xC of family 0x0 (R116). -/
  | miscReservedC
  /-- reserved sub-opcode 0xD of family 0x0 (R116). -/
  | miscReservedD
  /-- reserved sub-opcode 0xE of family 0x0 (R116). -/
  | miscReservedE
  /-- DEBUG (R115): `imm24` is `w[23:0]` (R70). -/
  | debug (imm24 : Nat)
  /-- POP (R130): `count` is `w[27:0]`, a byte count (R68). -/
  | pop (count : Nat)
  /-- ADD (R141). -/
  | add
  /-- SUB (R142). -/
  | sub
  /-- MUL (R143). -/
  | mul
  /-- DIV (R144). -/
  | div
  /-- MOD (R145). -/
  | mod
  /-- AND (R146). -/
  | and
  /-- OR (R147). -/
  | or
  /-- XOR (R148). -/
  | xor
  /-- SHL (R149). -/
  | shl
  /-- SHR (R150). -/
  | shr
  /-- SAR (R151). -/
  | sar
  /-- unrecognized binary sub-opcode 0xB (R152). -/
  | arith2UnrecognizedB
  /-- unrecognized binary sub-opcode 0xC (R152). -/
  | arith2UnrecognizedC
  /-- unrecognized binary sub-opcode 0xD (R152). -/
  | arith2UnrecognizedD
  /-- unrecognized binary sub-opcode 0xE (R152). -/
  | arith2UnrecognizedE
  /-- unrecognized binary sub-opcode 0xF (R152). -/
  | arith2UnrecognizedF
  /-- NEG (R154). -/
  | neg
  /-- NOT (R155). -/
  | not
  /-- unrecognized unary sub-opcode 0x2 (R156). -/
  | arith1Unrecognized2
  /-- unrecognized unary sub-opcode 0x3 (R156). -/
  | arith1Unrecognized3
  /-- unrecognized unary sub-opcode 0x4 (R156). -/
  | arith1Unrecognized4
  /-- unrecognized unary sub-opcode 0x5 (R156). -/
  | arith1Unrecognized5
  /-- unrecognized unary sub-opcode 0x6 (R156). -/
  | arith1Unrecognized6
  /-- unrecognized unary sub-opcode 0x7 (R156). -/
  | arith1Unrecognized7
  /-- unrecognized unary sub-opcode 0x8 (R156). -/
  | arith1Unrecognized8
  /-- unrecognized unary sub-opcode 0x9 (R156). -/
  | arith1Unrecognized9
  /-- unrecognized unary sub-opcode 0xA (R156). -/
  | arith1UnrecognizedA
  /-- unrecognized unary sub-opcode 0xB (R156). -/
  | arith1UnrecognizedB
  /-- unrecognized unary sub-opcode 0xC (R156). -/
  | arith1UnrecognizedC
  /-- unrecognized unary sub-opcode 0xD (R156). -/
  | arith1UnrecognizedD
  /-- unrecognized unary sub-opcode 0xE (R156). -/
  | arith1UnrecognizedE
  /-- unrecognized unary sub-opcode 0xF (R156). -/
  | arith1UnrecognizedF
  /-- PRINTS (R190): `off` as DUP. -/
  | prints (off : Int)
  /-- CALL (R170): `off` is the byte offset `4 * sext_26(w[27:2])` (R64). -/
  | call (off : Int)
  /-- RET (R171): `count` is `w[27:0]`, a byte count (R68). -/
  | ret (count : Nat)
  /-- GOTO (R172): `off` as CALL. -/
  | goto (off : Int)
  /-- JEQ (R174): `off` is the byte offset `4 * sext_23(w[24:2])` (R66). -/
  | jeq (off : Int)
  /-- JNE (R175): `off` is the byte offset `4 * sext_23(w[24:2])` (R66). -/
  | jne (off : Int)
  /-- JLT (R176): `off` is the byte offset `4 * sext_23(w[24:2])` (R66). -/
  | jlt (off : Int)
  /-- JGT (R177): `off` is the byte offset `4 * sext_23(w[24:2])` (R66). -/
  | jgt (off : Int)
  /-- JLE (R178): `off` is the byte offset `4 * sext_23(w[24:2])` (R66). -/
  | jle (off : Int)
  /-- JGE (R179): `off` is the byte offset `4 * sext_23(w[24:2])` (R66). -/
  | jge (off : Int)
  /-- undefined condition 6 of family 0x8 (R180). -/
  | jbUndefined6
  /-- undefined condition 7 of family 0x8 (R180). -/
  | jbUndefined7
  /-- JZ (R182): `off` is the byte offset `4 * sext_24(w[25:2])` (R65). -/
  | jz (off : Int)
  /-- JNZ (R183): `off` is the byte offset `4 * sext_24(w[25:2])` (R65). -/
  | jnz (off : Int)
  /-- JNEG (R184): `off` is the byte offset `4 * sext_24(w[25:2])` (R65). -/
  | jneg (off : Int)
  /-- JNNEG (R185): `off` is the byte offset `4 * sext_24(w[25:2])` (R65). -/
  | jnneg (off : Int)
  /-- the unassigned opcode 0xA (R94). -/
  | nopA
  /-- DUP (R131): `off` is the byte offset `4 * sext_26(w[27:2])` (R64). -/
  | dup (off : Int)
  /-- the unassigned opcode 0xC (R94). -/
  | nopC
  /-- PRINT.DEC (R192): `off` is the byte offset `4 * sext_24(w[25:2])` (R65). -/
  | printDec (off : Int)
  /-- PRINT.HEX (R193): `off` is the byte offset `4 * sext_24(w[25:2])` (R65). -/
  | printHex (off : Int)
  /-- PRINT.BIN (R194): `off` is the byte offset `4 * sext_24(w[25:2])` (R65). -/
  | printBin (off : Int)
  /-- PRINT.OCT (R195): `off` is the byte offset `4 * sext_24(w[25:2])` (R65). -/
  | printOct (off : Int)
  /-- DUMP (R196). -/
  | dump
  /-- PUSH (R132): `imm28` is `w[27:0]` (R68). -/
  | push (imm28 : Nat)
deriving DecidableEq, Repr

/-- The mnemonic of the instruction's row, as spec/opcode_table.json spells it. -/
def Instr.mnemonic : Instr → String
  | .exit _ => "EXIT"
  | .swap _ _ => "SWAP"
  | .miscReserved2 => "MISC.RESERVED.2"
  | .miscReserved3 => "MISC.RESERVED.3"
  | .input => "INPUT"
  | .stinput _ => "STINPUT"
  | .miscReserved6 => "MISC.RESERVED.6"
  | .miscReserved7 => "MISC.RESERVED.7"
  | .miscReserved8 => "MISC.RESERVED.8"
  | .miscReserved9 => "MISC.RESERVED.9"
  | .miscReservedA => "MISC.RESERVED.A"
  | .miscReservedB => "MISC.RESERVED.B"
  | .miscReservedC => "MISC.RESERVED.C"
  | .miscReservedD => "MISC.RESERVED.D"
  | .miscReservedE => "MISC.RESERVED.E"
  | .debug _ => "DEBUG"
  | .pop _ => "POP"
  | .add => "ADD"
  | .sub => "SUB"
  | .mul => "MUL"
  | .div => "DIV"
  | .mod => "MOD"
  | .and => "AND"
  | .or => "OR"
  | .xor => "XOR"
  | .shl => "SHL"
  | .shr => "SHR"
  | .sar => "SAR"
  | .arith2UnrecognizedB => "ARITH2.UNRECOGNIZED.B"
  | .arith2UnrecognizedC => "ARITH2.UNRECOGNIZED.C"
  | .arith2UnrecognizedD => "ARITH2.UNRECOGNIZED.D"
  | .arith2UnrecognizedE => "ARITH2.UNRECOGNIZED.E"
  | .arith2UnrecognizedF => "ARITH2.UNRECOGNIZED.F"
  | .neg => "NEG"
  | .not => "NOT"
  | .arith1Unrecognized2 => "ARITH1.UNRECOGNIZED.2"
  | .arith1Unrecognized3 => "ARITH1.UNRECOGNIZED.3"
  | .arith1Unrecognized4 => "ARITH1.UNRECOGNIZED.4"
  | .arith1Unrecognized5 => "ARITH1.UNRECOGNIZED.5"
  | .arith1Unrecognized6 => "ARITH1.UNRECOGNIZED.6"
  | .arith1Unrecognized7 => "ARITH1.UNRECOGNIZED.7"
  | .arith1Unrecognized8 => "ARITH1.UNRECOGNIZED.8"
  | .arith1Unrecognized9 => "ARITH1.UNRECOGNIZED.9"
  | .arith1UnrecognizedA => "ARITH1.UNRECOGNIZED.A"
  | .arith1UnrecognizedB => "ARITH1.UNRECOGNIZED.B"
  | .arith1UnrecognizedC => "ARITH1.UNRECOGNIZED.C"
  | .arith1UnrecognizedD => "ARITH1.UNRECOGNIZED.D"
  | .arith1UnrecognizedE => "ARITH1.UNRECOGNIZED.E"
  | .arith1UnrecognizedF => "ARITH1.UNRECOGNIZED.F"
  | .prints _ => "PRINTS"
  | .call _ => "CALL"
  | .ret _ => "RET"
  | .goto _ => "GOTO"
  | .jeq _ => "JEQ"
  | .jne _ => "JNE"
  | .jlt _ => "JLT"
  | .jgt _ => "JGT"
  | .jle _ => "JLE"
  | .jge _ => "JGE"
  | .jbUndefined6 => "JB.UNDEFINED.6"
  | .jbUndefined7 => "JB.UNDEFINED.7"
  | .jz _ => "JZ"
  | .jnz _ => "JNZ"
  | .jneg _ => "JNEG"
  | .jnneg _ => "JNNEG"
  | .nopA => "NOP.A"
  | .dup _ => "DUP"
  | .nopC => "NOP.C"
  | .printDec _ => "PRINT.DEC"
  | .printHex _ => "PRINT.HEX"
  | .printBin _ => "PRINT.BIN"
  | .printOct _ => "PRINT.OCT"
  | .dump => "DUMP"
  | .push _ => "PUSH"

end Sys2Proof
end

