-- ==== Sys2Proof/WellFormed.lean ====
section
/-! DEFINITION. Well-formed instructions: the operand ranges the encodings admit (spec/30_encoding.md R64 to R70, R82). -/

namespace Sys2Proof

/-- A byte offset an offset field can hold: a multiple of 4 in `-2^k .. 2^k - 4` (R64 to R66). -/
def offsetFits (k : Nat) (off : Int) : Bool :=
  decide (off % 4 = 0) && decide (-(2 ^ k) ≤ off) && decide (off ≤ 2 ^ k - 4)

/-- The operands are ones that the instruction's encoding admits. -/
def Instr.wf : Instr → Bool
  | .exit code => decide (-128 ≤ code) && decide (code ≤ 127)
  | .swap offA offB => offsetFits 13 offA && offsetFits 13 offB
  | .miscReserved2 => true
  | .miscReserved3 => true
  | .input => true
  | .stinput max => decide (max < 2 ^ 24)
  | .miscReserved6 => true
  | .miscReserved7 => true
  | .miscReserved8 => true
  | .miscReserved9 => true
  | .miscReservedA => true
  | .miscReservedB => true
  | .miscReservedC => true
  | .miscReservedD => true
  | .miscReservedE => true
  | .debug imm24 => decide (imm24 < 2 ^ 24)
  | .pop count => decide (count < 2 ^ 28)
  | .add => true
  | .sub => true
  | .mul => true
  | .div => true
  | .mod => true
  | .and => true
  | .or => true
  | .xor => true
  | .shl => true
  | .shr => true
  | .sar => true
  | .arith2UnrecognizedB => true
  | .arith2UnrecognizedC => true
  | .arith2UnrecognizedD => true
  | .arith2UnrecognizedE => true
  | .arith2UnrecognizedF => true
  | .neg => true
  | .not => true
  | .arith1Unrecognized2 => true
  | .arith1Unrecognized3 => true
  | .arith1Unrecognized4 => true
  | .arith1Unrecognized5 => true
  | .arith1Unrecognized6 => true
  | .arith1Unrecognized7 => true
  | .arith1Unrecognized8 => true
  | .arith1Unrecognized9 => true
  | .arith1UnrecognizedA => true
  | .arith1UnrecognizedB => true
  | .arith1UnrecognizedC => true
  | .arith1UnrecognizedD => true
  | .arith1UnrecognizedE => true
  | .arith1UnrecognizedF => true
  | .prints off => offsetFits 27 off
  | .call off => offsetFits 27 off
  | .ret count => decide (count < 2 ^ 28)
  | .goto off => offsetFits 27 off
  | .jeq off => offsetFits 24 off
  | .jne off => offsetFits 24 off
  | .jlt off => offsetFits 24 off
  | .jgt off => offsetFits 24 off
  | .jle off => offsetFits 24 off
  | .jge off => offsetFits 24 off
  | .jbUndefined6 => true
  | .jbUndefined7 => true
  | .jz off => offsetFits 25 off
  | .jnz off => offsetFits 25 off
  | .jneg off => offsetFits 25 off
  | .jnneg off => offsetFits 25 off
  | .nopA => true
  | .dup off => offsetFits 27 off
  | .nopC => true
  | .printDec off => offsetFits 25 off
  | .printHex off => offsetFits 25 off
  | .printBin off => offsetFits 25 off
  | .printOct off => offsetFits 25 off
  | .dump => true
  | .push imm28 => decide (imm28 < 2 ^ 28)

end Sys2Proof
end

