-- ==== Sys2Proof/Decode.lean ====
section
/-! DEFINITION. The decoder and the encoder (spec/30_encoding.md): bit fields, the opcode map of R73 with its sub-tables R74 to
R78, the byte order of R60, and the table of spec/opcode_table.json as data. -/

namespace Sys2Proof

/-- `w[hi:lo]`, the unsigned integer made of bits `hi` down to `lo` (R6). -/
def bits (w : Word) (hi lo : Nat) : Nat := w.toNat / 2 ^ lo % 2 ^ (hi - lo + 1)

theorem bits_lt (w : Word) (hi lo : Nat) : bits w hi lo < 2 ^ (hi - lo + 1) :=
  Nat.mod_lt _ (Nat.two_pow_pos _)

/-- `w[hi:lo]` as an index into a table with one entry per value of the field. -/
def selector (w : Word) (hi lo : Nat) : Fin (2 ^ (hi - lo + 1)) := ⟨bits w hi lo, bits_lt w hi lo⟩

/-- `sext_k(f)` of a `k`-bit field `f` (R7). -/
def sext (k f : Nat) : Int := if f < 2 ^ (k - 1) then f else (f : Int) - 2 ^ k

/-- A byte offset: the field `w[hi:lo]`, sign-extended, scaled by 4 (R64 to R67). -/
def offsetField (w : Word) (hi lo : Nat) : Int := 4 * sext (hi - lo + 1) (bits w hi lo)

/-- The word of four bytes, the first at the lowest address: little-endian (R40, R60). -/
def wordOfBytes (b0 b1 b2 b3 : Byte) : Word :=
  BitVec.ofNat 32 (b0.toNat + 2 ^ 8 * b1.toNat + 2 ^ 16 * b2.toNat + 2 ^ 24 * b3.toNat)

/-- `v[8i+7 : 8i]`, the byte of `v` stored at offset `i` (R41). -/
def byteOfWord (v : Word) (i : Nat) : Byte := BitVec.ofNat 8 (bits v (8 * i + 7) (8 * i))

/-- The four bytes of a word in storage order (R41, R60). -/
def bytesOfWord (v : Word) : List Byte := [byteOfWord v 0, byteOfWord v 1, byteOfWord v 2, byteOfWord v 3]

/-- Family 0x0 by `sub = w[27:24]` (R74, R110). -/
def miscTable : Vector (Word → Instr) 16 := #v[
  fun w => .exit (sext 8 (bits w 7 0)),
  fun w => .swap (offsetField w 23 12) (offsetField w 11 0),
  fun _ => .miscReserved2,
  fun _ => .miscReserved3,
  fun _ => .input,
  fun w => .stinput (bits w 23 0),
  fun _ => .miscReserved6,
  fun _ => .miscReserved7,
  fun _ => .miscReserved8,
  fun _ => .miscReserved9,
  fun _ => .miscReservedA,
  fun _ => .miscReservedB,
  fun _ => .miscReservedC,
  fun _ => .miscReservedD,
  fun _ => .miscReservedE,
  fun w => .debug (bits w 23 0)]

/-- Family 0x2 by `sub = w[27:24]` (R75). -/
def binaryTable : Vector (Word → Instr) 16 := #v[
  fun _ => .add,
  fun _ => .sub,
  fun _ => .mul,
  fun _ => .div,
  fun _ => .mod,
  fun _ => .and,
  fun _ => .or,
  fun _ => .xor,
  fun _ => .shl,
  fun _ => .shr,
  fun _ => .sar,
  fun _ => .arith2UnrecognizedB,
  fun _ => .arith2UnrecognizedC,
  fun _ => .arith2UnrecognizedD,
  fun _ => .arith2UnrecognizedE,
  fun _ => .arith2UnrecognizedF]

/-- Family 0x3 by `sub = w[27:24]` (R63, R76). -/
def unaryTable : Vector (Word → Instr) 16 := #v[
  fun _ => .neg,
  fun _ => .not,
  fun _ => .arith1Unrecognized2,
  fun _ => .arith1Unrecognized3,
  fun _ => .arith1Unrecognized4,
  fun _ => .arith1Unrecognized5,
  fun _ => .arith1Unrecognized6,
  fun _ => .arith1Unrecognized7,
  fun _ => .arith1Unrecognized8,
  fun _ => .arith1Unrecognized9,
  fun _ => .arith1UnrecognizedA,
  fun _ => .arith1UnrecognizedB,
  fun _ => .arith1UnrecognizedC,
  fun _ => .arith1UnrecognizedD,
  fun _ => .arith1UnrecognizedE,
  fun _ => .arith1UnrecognizedF]

/-- Family 0x8 by `cond3 = w[27:25]` (R71, R77). -/
def binaryJumpTable : Vector (Word → Instr) 8 := #v[
  fun w => .jeq (offsetField w 24 2),
  fun w => .jne (offsetField w 24 2),
  fun w => .jlt (offsetField w 24 2),
  fun w => .jgt (offsetField w 24 2),
  fun w => .jle (offsetField w 24 2),
  fun w => .jge (offsetField w 24 2),
  fun _ => .jbUndefined6,
  fun _ => .jbUndefined7]

/-- Family 0x9 by `sel2 = w[27:26]` (R71, R77). -/
def unaryJumpTable : Vector (Word → Instr) 4 := #v[
  fun w => .jz (offsetField w 25 2),
  fun w => .jnz (offsetField w 25 2),
  fun w => .jneg (offsetField w 25 2),
  fun w => .jnneg (offsetField w 25 2)]

/-- Family 0xD by `sel2 = w[27:26]` (R71, R78). -/
def printTable : Vector (Word → Instr) 4 := #v[
  fun w => .printDec (offsetField w 25 2),
  fun w => .printHex (offsetField w 25 2),
  fun w => .printBin (offsetField w 25 2),
  fun w => .printOct (offsetField w 25 2)]

/-- The opcode map by `op = w[31:28]`, all sixteen values (R61, R73, R93). -/
def opcodeMap : Vector (Word → Instr) 16 := #v[
  fun w => miscTable.get (selector w 27 24) w,
  fun w => .pop (bits w 27 0),
  fun w => binaryTable.get (selector w 27 24) w,
  fun w => unaryTable.get (selector w 27 24) w,
  fun w => .prints (offsetField w 27 2),
  fun w => .call (offsetField w 27 2),
  fun w => .ret (bits w 27 0),
  fun w => .goto (offsetField w 27 2),
  fun w => binaryJumpTable.get (selector w 27 25) w,
  fun w => unaryJumpTable.get (selector w 27 26) w,
  fun _ => .nopA,
  fun w => .dup (offsetField w 27 2),
  fun _ => .nopC,
  fun w => printTable.get (selector w 27 26) w,
  fun _ => .dump,
  fun w => .push (bits w 27 0)]

/-- The decoder: every 32-bit word is an instruction (R79). -/
def decodeWord (w : Word) : Instr := opcodeMap.get (selector w 31 28) w

/-- Why bytes are no instruction: the model's own name, raised by `decode` only; safe (a run fetches four bytes). -/
inductive DecodeError where
  /-- fewer than the four bytes of an instruction word are given (R60). -/
  | truncated
deriving DecidableEq, Repr

/-- The instruction at the head of a list of bytes, and the rest of the list (R60). -/
def decode : List Byte → Except DecodeError (Instr × List Byte)
  | b0 :: b1 :: b2 :: b3 :: rest => .ok (decodeWord (wordOfBytes b0 b1 b2 b3), rest)
  | _ => .error .truncated

/-- `o mod 2^k`: the two's-complement field of an integer, in place (R82, R84). -/
def fieldOf (k : Nat) (o : Int) : Nat := (o % 2 ^ k).toNat

/-- The number an instruction's word is: its row's match, its fields in place, zeros in every ignored bit (R82, R84). -/
def encodeNat : Instr → Nat
  | .exit code => 0x00000000 + fieldOf 8 code
  | .swap offA offB => 0x01000000 + fieldOf 12 (offA / 4) * 2 ^ 12 + fieldOf 12 (offB / 4)
  | .miscReserved2 => 0x02000000
  | .miscReserved3 => 0x03000000
  | .input => 0x04000000
  | .stinput max => 0x05000000 + max
  | .miscReserved6 => 0x06000000
  | .miscReserved7 => 0x07000000
  | .miscReserved8 => 0x08000000
  | .miscReserved9 => 0x09000000
  | .miscReservedA => 0x0A000000
  | .miscReservedB => 0x0B000000
  | .miscReservedC => 0x0C000000
  | .miscReservedD => 0x0D000000
  | .miscReservedE => 0x0E000000
  | .debug imm24 => 0x0F000000 + imm24
  | .pop count => 0x10000000 + count
  | .add => 0x20000000
  | .sub => 0x21000000
  | .mul => 0x22000000
  | .div => 0x23000000
  | .mod => 0x24000000
  | .and => 0x25000000
  | .or => 0x26000000
  | .xor => 0x27000000
  | .shl => 0x28000000
  | .shr => 0x29000000
  | .sar => 0x2A000000
  | .arith2UnrecognizedB => 0x2B000000
  | .arith2UnrecognizedC => 0x2C000000
  | .arith2UnrecognizedD => 0x2D000000
  | .arith2UnrecognizedE => 0x2E000000
  | .arith2UnrecognizedF => 0x2F000000
  | .neg => 0x30000000
  | .not => 0x31000000
  | .arith1Unrecognized2 => 0x32000000
  | .arith1Unrecognized3 => 0x33000000
  | .arith1Unrecognized4 => 0x34000000
  | .arith1Unrecognized5 => 0x35000000
  | .arith1Unrecognized6 => 0x36000000
  | .arith1Unrecognized7 => 0x37000000
  | .arith1Unrecognized8 => 0x38000000
  | .arith1Unrecognized9 => 0x39000000
  | .arith1UnrecognizedA => 0x3A000000
  | .arith1UnrecognizedB => 0x3B000000
  | .arith1UnrecognizedC => 0x3C000000
  | .arith1UnrecognizedD => 0x3D000000
  | .arith1UnrecognizedE => 0x3E000000
  | .arith1UnrecognizedF => 0x3F000000
  | .prints off => 0x40000000 + fieldOf 28 off
  | .call off => 0x50000000 + fieldOf 28 off
  | .ret count => 0x60000000 + count
  | .goto off => 0x70000000 + fieldOf 28 off
  | .jeq off => 0x80000000 + fieldOf 25 off
  | .jne off => 0x82000000 + fieldOf 25 off
  | .jlt off => 0x84000000 + fieldOf 25 off
  | .jgt off => 0x86000000 + fieldOf 25 off
  | .jle off => 0x88000000 + fieldOf 25 off
  | .jge off => 0x8A000000 + fieldOf 25 off
  | .jbUndefined6 => 0x8C000000
  | .jbUndefined7 => 0x8E000000
  | .jz off => 0x90000000 + fieldOf 26 off
  | .jnz off => 0x94000000 + fieldOf 26 off
  | .jneg off => 0x98000000 + fieldOf 26 off
  | .jnneg off => 0x9C000000 + fieldOf 26 off
  | .nopA => 0xA0000000
  | .dup off => 0xB0000000 + fieldOf 28 off
  | .nopC => 0xC0000000
  | .printDec off => 0xD0000000 + fieldOf 26 off
  | .printHex off => 0xD4000000 + fieldOf 26 off
  | .printBin off => 0xD8000000 + fieldOf 26 off
  | .printOct off => 0xDC000000 + fieldOf 26 off
  | .dump => 0xE0000000
  | .push imm28 => 0xF0000000 + imm28

/-- The instruction's word (R84). -/
def encodeWord (i : Instr) : Word := BitVec.ofNat 32 (encodeNat i)

/-- The instruction's four bytes in storage order (R60). -/
def encode (i : Instr) : List Byte := bytesOfWord (encodeWord i)

/-- One row of spec/opcode_table.json: the words `w` with `w[31:lo] = value` are the row's. -/
structure OpcodeRow where
  mnemonic : String
  lo : Nat
  value : Nat
deriving DecidableEq, Repr

/-- The word belongs to the row. -/
def OpcodeRow.holds (r : OpcodeRow) (w : Word) : Bool := bits w 31 r.lo == r.value

/-- The rows of spec/opcode_table.json, in the table's order. -/
def opcodeTable : List OpcodeRow :=
  [⟨"EXIT", 24, 0⟩, ⟨"SWAP", 24, 1⟩, ⟨"MISC.RESERVED.2", 24, 2⟩,
   ⟨"MISC.RESERVED.3", 24, 3⟩, ⟨"INPUT", 24, 4⟩, ⟨"STINPUT", 24, 5⟩,
   ⟨"MISC.RESERVED.6", 24, 6⟩, ⟨"MISC.RESERVED.7", 24, 7⟩, ⟨"MISC.RESERVED.8", 24, 8⟩,
   ⟨"MISC.RESERVED.9", 24, 9⟩, ⟨"MISC.RESERVED.A", 24, 10⟩, ⟨"MISC.RESERVED.B", 24, 11⟩,
   ⟨"MISC.RESERVED.C", 24, 12⟩, ⟨"MISC.RESERVED.D", 24, 13⟩, ⟨"MISC.RESERVED.E", 24, 14⟩,
   ⟨"DEBUG", 24, 15⟩, ⟨"POP", 28, 1⟩, ⟨"ADD", 24, 32⟩,
   ⟨"SUB", 24, 33⟩, ⟨"MUL", 24, 34⟩, ⟨"DIV", 24, 35⟩,
   ⟨"MOD", 24, 36⟩, ⟨"AND", 24, 37⟩, ⟨"OR", 24, 38⟩,
   ⟨"XOR", 24, 39⟩] ++
  [⟨"SHL", 24, 40⟩, ⟨"SHR", 24, 41⟩, ⟨"SAR", 24, 42⟩,
   ⟨"ARITH2.UNRECOGNIZED.B", 24, 43⟩, ⟨"ARITH2.UNRECOGNIZED.C", 24, 44⟩, ⟨"ARITH2.UNRECOGNIZED.D", 24, 45⟩,
   ⟨"ARITH2.UNRECOGNIZED.E", 24, 46⟩, ⟨"ARITH2.UNRECOGNIZED.F", 24, 47⟩, ⟨"NEG", 24, 48⟩,
   ⟨"NOT", 24, 49⟩, ⟨"ARITH1.UNRECOGNIZED.2", 24, 50⟩, ⟨"ARITH1.UNRECOGNIZED.3", 24, 51⟩,
   ⟨"ARITH1.UNRECOGNIZED.4", 24, 52⟩, ⟨"ARITH1.UNRECOGNIZED.5", 24, 53⟩, ⟨"ARITH1.UNRECOGNIZED.6", 24, 54⟩,
   ⟨"ARITH1.UNRECOGNIZED.7", 24, 55⟩, ⟨"ARITH1.UNRECOGNIZED.8", 24, 56⟩, ⟨"ARITH1.UNRECOGNIZED.9", 24, 57⟩,
   ⟨"ARITH1.UNRECOGNIZED.A", 24, 58⟩, ⟨"ARITH1.UNRECOGNIZED.B", 24, 59⟩, ⟨"ARITH1.UNRECOGNIZED.C", 24, 60⟩,
   ⟨"ARITH1.UNRECOGNIZED.D", 24, 61⟩, ⟨"ARITH1.UNRECOGNIZED.E", 24, 62⟩, ⟨"ARITH1.UNRECOGNIZED.F", 24, 63⟩,
   ⟨"PRINTS", 28, 4⟩] ++
  [⟨"CALL", 28, 5⟩, ⟨"RET", 28, 6⟩, ⟨"GOTO", 28, 7⟩,
   ⟨"JEQ", 25, 64⟩, ⟨"JNE", 25, 65⟩, ⟨"JLT", 25, 66⟩,
   ⟨"JGT", 25, 67⟩, ⟨"JLE", 25, 68⟩, ⟨"JGE", 25, 69⟩,
   ⟨"JB.UNDEFINED.6", 25, 70⟩, ⟨"JB.UNDEFINED.7", 25, 71⟩, ⟨"JZ", 26, 36⟩,
   ⟨"JNZ", 26, 37⟩, ⟨"JNEG", 26, 38⟩, ⟨"JNNEG", 26, 39⟩,
   ⟨"NOP.A", 28, 10⟩, ⟨"DUP", 28, 11⟩, ⟨"NOP.C", 28, 12⟩,
   ⟨"PRINT.DEC", 26, 52⟩, ⟨"PRINT.HEX", 26, 53⟩, ⟨"PRINT.BIN", 26, 54⟩,
   ⟨"PRINT.OCT", 26, 55⟩, ⟨"DUMP", 28, 14⟩, ⟨"PUSH", 28, 15⟩]

/-- The instruction the decoder reads from the table's numbering of an instruction's bits: the low `nbits` bits of `w`, the
others 0, laid out as the four bytes in storage order (R60). `none` where the bits do not fit in one word. -/
def decodeTableWord (nbits w : Nat) : Option Instr :=
  if w % 2 ^ nbits < 2 ^ 32 then
    match decode (bytesOfWord (BitVec.ofNat 32 (w % 2 ^ nbits))) with
    | .ok (i, _) => some i
    | .error _ => none
  else none

end Sys2Proof
end

