-- ==== Sys2Proof/Config.lean ====
section
/-! DEFINITION. The implementation parameters of spec/00_scope.md R4 and the free values of the IN port. -/

namespace Sys2Proof

/-- The parameters of R4 that the core reads, and HALT_STATUS, which the host reads (R209). RENDER and PARSE are the
host's text functions, outside the core (R3 (c); notes/assumptions/9.md). -/
structure Params where
  /-- `N`, the capacity of memory in bytes. -/
  memBytes : Nat
  /-- opcode 0x6 is RET; otherwise it is an unassigned opcode. -/
  hasRet : Bool
  /-- opcode 0xB is DUP; otherwise it is an unassigned opcode. -/
  hasDup : Bool
  /-- sub-opcode 0x5 of family 0x0 is STINPUT; otherwise it is reserved and halts. -/
  hasStinput : Bool
  /-- PUSH sign-extends its immediate from bit 27. -/
  pushSext : Bool
  /-- DIV and MOD use the signed view. -/
  divmodSigned : Bool
  /-- the order comparisons of opcode 0x8 use the signed view. -/
  cmpSigned : Bool
  /-- shift amounts are taken modulo 32. -/
  shiftMasked : Bool
  /-- the process status the host reports for an engine halt. -/
  haltStatus : Int
deriving DecidableEq, Repr

/-- What R4 allows `N` to be; another value is refused (spec/93_implementation_defined.md U25). -/
def Params.wf (c : Params) : Bool :=
  decide (c.memBytes % 4 = 0) && decide (8 ≤ c.memBytes) && decide (c.memBytes ≤ 2 ^ 28)

namespace Config

/-- This hardware: the value column of R4 (notes/assumptions/8.md). -/
def params : Params where
  memBytes := 4096
  hasRet := true
  hasDup := true
  hasStinput := true
  pushSext := false
  divmodSigned := true
  cmpSigned := true
  shiftMasked := true
  haltStatus := 1

/-- `N`, the capacity of memory in bytes (R4, R22). -/
def N : Nat := params.memBytes

/-- The word the host answers to an INPUT request that no settled answer covers, by the number of the draw: a free
value, under no law (R26, R113; U19; notes/assumptions/3.md). -/
opaque hostWord : Nat → Word

/-- The line the host answers to a STINPUT request that no settled answer covers, by the number of the draw: a free
value, any finite byte string without its terminator (R26, R114; U20; notes/assumptions/3.md). -/
opaque hostLine : Nat → List Byte

end Config

end Sys2Proof
end

