-- ==== Sys2Proof/Machine/State.lean ====
section
/-! DEFINITION. The state of the machine as plain data (spec/10_state.md), the state after reset, and the reasons a step stops. -/

namespace Sys2Proof.Machine

/-- Memory `M` (R22) as (address, byte) pairs in one canonical form: addresses strictly rising, and no entry equal to what an
unlisted address reads as (`Memory.unlisted` and `Memory.wf` in Machine/Ops.lean; notes/assumptions/6.md). -/
abbrev Memory := List Host.Cell

/-- The kinds of `MemFault` (R43, R201). -/
inductive MemFaultKind where
  | stackOverflow
  | stackUnderflow
  | badAddress
deriving DecidableEq, Repr

/-- The causes of `Halted(cause)`, with the info each records (R201). No other cause exists. -/
inductive Cause where
  /-- the PC that could not be fetched (R202). -/
  | fetchBound (pc : Word)
  /-- the sub-opcode `w[27:24]` (R203). -/
  | illegalMisc (sub : BitVec 4)
  /-- the invalid target, an integer (R204). -/
  | jumpFault (target : Int)
  /-- the kind and the address, an integer (R206). -/
  | memFault (kind : MemFaultKind) (addr : Int)
deriving DecidableEq, Repr

/-- The run status `STATUS` (R24). -/
inductive Status where
  | running
  | exited (code : Int)
  | halted (cause : Cause)
deriving DecidableEq, Repr

/-- The formats of PRINT.fmt (R78, R191). -/
inductive NumFmt where
  | dec
  | hex
  | bin
  | oct
deriving DecidableEq, Repr

/-- The three ports (R26). -/
inductive Port where
  | out
  | diag
  | input
deriving DecidableEq, Repr

/-- The typed events of the ports (R26). -/
inductive Event where
  | prompt
  | char (b : Byte)
  | num (fmt : NumFmt) (v : Word)
  | dumpLine (addr : Nat) (v : Word)
  | debug (imm24 : Nat) (pc sp : Word)
  | jumpFaultDiag (target : Int)
  | inWord (v : Word)
  | inLine (line : List Byte)
deriving DecidableEq, Repr

/-- The host's side of the IN port: the MODEL's own state, not the spec's (notes/assumptions/3.md and 4.md). An answer is the
next settled one; past those it is a free value where the host answers, and where the host is silent there is none (R26, R230). -/
structure HostPort where
  /-- the settled answers to the coming INPUT requests. -/
  words : List Word
  /-- the settled answers to the coming STINPUT requests. -/
  lines : List (List Byte)
  /-- whether the host answers a request that no settled answer covers. -/
  answers : Bool
  /-- how many free answers have been drawn. -/
  drawn : Nat
deriving DecidableEq, Repr

/-- The state of the machine: PC, SP, M, STATUS, the event trace (R20 to R26), and the host's side of the IN port. -/
structure State where
  /-- program counter (R20). -/
  pc : Word
  /-- stack pointer (R21). -/
  sp : Word
  /-- memory (R22). -/
  mem : Memory
  /-- run status (R24). -/
  status : Status
  /-- every event of the three ports, in order of emission (R26; notes/assumptions/7.md). -/
  trace : List Event
  /-- the host's side of the IN port (the model's own). -/
  host : HostPort
deriving DecidableEq, Repr

/-- The machine right after reset, for the empty program body: `PC = 0`, `SP = N`, every byte 0x00, Running, no event
(R29, R220, R222). A program is loaded by `Loader.load` (notes/assumptions/5.md). -/
def State.reset : State where
  pc := 0
  sp := BitVec.ofNat 32 Config.N
  mem := []
  status := .running
  trace := []
  host := { words := [], lines := [], answers := true, drawn := 0 }

/-- Why no step is taken. A halt of the spec is no `Fault`: it is a next state whose STATUS is `halted` (R205). -/
inductive Fault where
  /-- raised by `step` where STATUS is not Running: from Exited and Halted no step is defined (R90, R212; stuck, U23). Safe:
  the model stops where the spec defines nothing. -/
  | notRunning
  /-- raised by INPUT and STINPUT where the host never answers the request: the step never completes (R230; stuck, U21).
  Safe: nothing follows from a step that is not taken. -/
  | hostSilent
deriving DecidableEq, Repr

/-- Why an instruction has no meaning. -/
inductive Refusal where
  /-- raised by `exec` for an instruction that has no meaning yet: no arm raises it. Safe. -/
  | notModelled (mnemonic : String)
deriving DecidableEq, Repr

end Sys2Proof.Machine
end

