-- ==== Sys2Proof/Machine/Ops.lean ====
section
/-! DEFINITION. The named operations over memory, the registers, STATUS and the ports: the accesses of spec/20_memory.md, the
stack primitives, the redirect and the fetch of spec/40_cycle.md, and taking a halt (spec/60_exceptions.md R200 to R205). A halt
is the machine's only exception entry; there is no return from one (R212). -/

namespace Sys2Proof.Machine

/-! ## Memory -/

/-- What an unlisted address reads as: the loader zero-fills memory (R29, R223; notes/assumptions/6.md). -/
def Memory.unlisted : Byte := 0x00

/-- The canonical form: addresses strictly rising and below `N`, no listed byte equal to `Memory.unlisted`. -/
abbrev Memory.wf (m : Memory) : Prop :=
  m.Pairwise (fun c d => c.1 < d.1) ∧ ∀ c ∈ m, c.1 < Config.N ∧ c.2 ≠ Memory.unlisted

/-- `M[a]` (R22). -/
def Memory.read : Memory → Nat → Byte
  | [], _ => Memory.unlisted
  | c :: cs, a => if c.1 = a then c.2 else Memory.read cs a

/-- A new entry in its place by address. -/
def Memory.insert : Memory → Nat → Byte → Memory
  | [], a, b => [(a, b)]
  | c :: cs, a, b => if a < c.1 then (a, b) :: c :: cs else c :: Memory.insert cs a b

/-- `M[a] <- b`, keeping the canonical form. -/
def Memory.write (m : Memory) (a : Nat) (b : Byte) : Memory :=
  let rest := m.filter fun c => c.1 != a
  if b = Memory.unlisted then rest else Memory.insert rest a b

/-- `InBounds(a)` (R42). -/
abbrev inBounds (a : Int) : Prop := 0 ≤ a ∧ a + 4 ≤ Config.N

/-- `MemRead(a, 4)` for an address in bounds (R40). -/
def Memory.readWord (m : Memory) (a : Nat) : Word :=
  wordOfBytes (m.read a) (m.read (a + 1)) (m.read (a + 2)) (m.read (a + 3))

/-- `MemWrite(a, 4, v)` for an address in bounds (R41). -/
def Memory.writeWord (m : Memory) (a : Nat) (v : Word) : Memory :=
  (((m.write a (byteOfWord v 0)).write (a + 1) (byteOfWord v 1)).write (a + 2) (byteOfWord v 2)).write (a + 3) (byteOfWord v 3)

/-! ## Register, status and port updates -/

/-- `PC <- v`. -/
def State.setPc (s : State) (v : Word) : State := { s with pc := v }

/-- `SP <- v`. -/
def State.setSp (s : State) (v : Word) : State := { s with sp := v }

/-- Memory becomes `m`. -/
def State.setMem (s : State) (m : Memory) : State := { s with mem := m }

/-- `STATUS <- v`. -/
def State.setStatus (s : State) (v : Status) : State := { s with status := v }

/-- `emit` of the events, in order (R9, R26). -/
def State.emit (s : State) (es : List Event) : State := { s with trace := s.trace ++ es }

/-- The host's side of the IN port becomes `h`. -/
def State.setHost (s : State) (h : HostPort) : State := { s with host := h }

/-- The port an event is emitted on (R26). -/
def Event.port : Event → Port
  | .prompt => .out
  | .char _ => .out
  | .num _ _ => .out
  | .dumpLine _ _ => .out
  | .debug _ _ _ => .diag
  | .jumpFaultDiag _ => .diag
  | .inWord _ => .input
  | .inLine _ => .input

/-- The trace of one port (R26, R29). -/
def State.portTrace (s : State) (p : Port) : List Event := s.trace.filter fun e => e.port = p

/-! ## Taking a halt -/

/-- `raise cause`: STATUS becomes `Halted(cause)`; PC, SP, memory and the events already emitted stay as they are (R9, R205). -/
def State.raise (s : State) (cause : Cause) : State := s.setStatus (.halted cause)

/-! ## The stack primitives -/

/-- The effect of `Push(v)` where `SP >= 4` (R96). -/
def State.pushWord (s : State) (v : Word) : State :=
  (s.setSp (s.sp - 4)).setMem (s.mem.writeWord (s.sp - 4).toNat v)

/-- `Push(v)` (R96). -/
def State.push (s : State) (v : Word) : State :=
  if s.sp.toNat < 4 then s.raise (.memFault .stackOverflow ((s.sp.toNat : Int) - 4)) else s.pushWord v

/-- `Push` of each word in turn. -/
def State.pushAll (s : State) (vs : List Word) : State := vs.foldl State.push s

/-- The effect of `Pop()` where `SP + 4 <= N`: the word and the state after (R97). -/
def State.popWord (s : State) : Word × State := (s.mem.readWord s.sp.toNat, s.setSp (s.sp + 4))

/-! ## The instruction cycle -/

/-- `PC0`, the executing instruction's own address, from `PC1`: "base = PC_after_fetch - 4" (R92; notes/assumptions/11.md). -/
def State.pc0 (s : State) : Int := (s.pc.toNat : Int) - 4

/-- `Redirect(t)` (R100, R204). -/
def State.redirect (s : State) (t : Int) : State :=
  if t < 0 ∨ (Config.N : Int) ≤ t then (s.emit [.jumpFaultDiag t]).raise (.jumpFault t) else s.setPc (wrap32 t)

/-- The pre-check: a whole word lies at PC (R91). -/
def State.fetchFits (s : State) : Bool := decide (s.pc.toNat + 4 ≤ Config.N)

/-- The fetched word (R92): memory as it is now (R51). -/
def State.fetchedWord (s : State) : Word := s.mem.readWord s.pc.toNat

/-- `PC <- PC0 + 4`, before dispatch (R92). -/
def State.advance (s : State) : State := s.setPc (s.pc + 4)

/-! ## The IN port -/

/-- The host's answer to an INPUT request and the port after it; `none` where the host never answers (R26, R230). -/
def HostPort.nextWord (h : HostPort) : Option (Word × HostPort) :=
  match h.words with
  | v :: rest => some (v, { h with words := rest })
  | [] => if h.answers then some (Config.hostWord h.drawn, { h with drawn := h.drawn + 1 }) else none

/-- The host's answer to a STINPUT request and the port after it; `none` where the host never answers (R26, R230). -/
def HostPort.nextLine (h : HostPort) : Option (List Byte × HostPort) :=
  match h.lines with
  | l :: rest => some (l, { h with lines := rest })
  | [] => if h.answers then some (Config.hostLine h.drawn, { h with drawn := h.drawn + 1 }) else none

end Sys2Proof.Machine
end

