-- ==== Sys2Proof/Machine/Operands.lean ====
section
/-! DEFINITION. The operand forms: stack-relative addresses, peeked operands, the widened immediate of PUSH, POP's count and the
packed chunks of STINPUT. There are no register operands (spec/10_state.md R23). -/

namespace Sys2Proof.Machine

/-- The stack-relative address `SP + off`, an integer (R8, R99). -/
def State.spRel (s : State) (off : Int) : Int := (s.sp.toNat : Int) + off

/-- The word at SP: the right operand, or the one operand (R98, R173, R181). -/
def State.peekTop (s : State) : Word := s.mem.readWord s.sp.toNat

/-- The left operand of a binary jump: the word at `SP + 4`, 0 where that is out of bounds (R44, R98, R173). -/
def State.peekLeft (s : State) : Word :=
  if s.sp.toNat + 8 ≤ Config.N then s.mem.readWord (s.sp.toNat + 4) else 0

/-- The word PUSH pushes: its 28-bit pattern zero-extended, or sign-extended from bit 27 under PUSH_SEXT (R68, R132). -/
def widenImm28 (signExtend : Bool) (imm28 : Nat) : Word :=
  if signExtend then wrap32 (sext 28 imm28) else wrap32 imm28

/-- POP's byte count: 0 means one word (R130). -/
def popCount (count : Nat) : Nat := if count = 0 then 4 else count

/-- `ceil(len / 3)`, the number of chunks of a string of `len` bytes (R114). -/
def chunkCount (len : Nat) : Nat := (len + 2) / 3

/-- Chunk `i` of the string as STINPUT packs it: three bytes from the lowest address up, absent ones 0x01, and the flag byte
0x01 but for the last chunk, whose flag is 0x00 (R114). -/
def chunkWord (str : List Byte) (i : Nat) : Word :=
  wordOfBytes (str.getD (3 * i) 0x01) (str.getD (3 * i + 1) 0x01) (str.getD (3 * i + 2) 0x01)
    (if i + 1 = chunkCount str.length then 0x00 else 0x01)

/-- The words STINPUT pushes, in the order it pushes them: from the last chunk down to chunk 0 (R114). -/
def chunksInPushOrder (str : List Byte) : List Word :=
  ((List.range (chunkCount str.length)).reverse).map (chunkWord str)

end Sys2Proof.Machine
end

