-- ==== Sys2Proof/Machine/Arith.lean ====
section
/-! DEFINITION. Arithmetic (spec/43_arith.md): the eleven binary and two unary operations on words, their common stack part, and
the unrecognized sub-opcodes, which are no-ops. No arithmetic instruction faults for an arithmetic reason (R157). -/

namespace Sys2Proof.Machine

/-! ## The functions `f(l, r)` and `g(x)` -/

/-- ADD (R141). -/
def addWord (l r : Word) : Word := wrap32 ((l.toNat : Int) + r.toNat)

/-- SUB (R142). -/
def subWord (l r : Word) : Word := wrap32 ((l.toNat : Int) - r.toNat)

/-- MUL (R143). -/
def mulWord (l r : Word) : Word := wrap32 ((l.toNat : Int) * r.toNat)

/-- DIV (R144): 0 for a zero divisor; signed, the quotient rounds toward zero and the one overflow wraps. `signed` is
DIVMOD_SIGNED. -/
def divWord (signed : Bool) (l r : Word) : Word :=
  if r.toNat = 0 then 0
  else if signed then wrap32 (l.toInt.tdiv r.toInt)
  else wrap32 ((l.toNat / r.toNat : Nat) : Int)

/-- MOD (R145): 0 for a zero divisor; signed, the remainder takes the sign of the dividend. `signed` is DIVMOD_SIGNED. -/
def modWord (signed : Bool) (l r : Word) : Word :=
  if r.toNat = 0 then 0
  else if signed then wrap32 (l.toInt - r.toInt * l.toInt.tdiv r.toInt)
  else wrap32 ((l.toNat % r.toNat : Nat) : Int)

/-- AND (R146). -/
def andWord (l r : Word) : Word := l &&& r

/-- OR (R147). -/
def orWord (l r : Word) : Word := l ||| r

/-- XOR (R148). -/
def xorWord (l r : Word) : Word := l ^^^ r

/-- SHL (R149): the amount modulo 32, or 0 for amounts of 32 and more where SHIFT_MASKED is false. -/
def shlWord (masked : Bool) (l r : Word) : Word :=
  if masked = false ∧ 32 ≤ r.toNat then 0 else wrap32 ((l.toNat : Int) * 2 ^ (r.toNat % 32))

/-- SHR (R150): zeros come in at the top. -/
def shrWord (masked : Bool) (l r : Word) : Word :=
  if masked = false ∧ 32 ≤ r.toNat then 0 else wrap32 ((l.toNat / 2 ^ (r.toNat % 32) : Nat) : Int)

/-- SAR (R151): copies of bit 31 come in at the top; rounds toward minus infinity. -/
def sarWord (masked : Bool) (l r : Word) : Word :=
  if masked = false ∧ 32 ≤ r.toNat then (if l.toInt < 0 then 0xFFFFFFFF else 0)
  else wrap32 (l.toInt.fdiv (2 ^ (r.toNat % 32)))

/-- NEG (R154). -/
def negWord (x : Word) : Word := wrap32 (-x.toInt)

/-- NOT (R155). -/
def notWord (x : Word) : Word := ~~~x

/-! ## The common parts -/

/-- The common part of the binary instructions: both operands are tested for before either is popped; the right operand is on
top; the result is `f left right` (R140). -/
def State.binaryOp (s : State) (f : Word → Word → Word) : State :=
  if s.sp.toNat + 4 > Config.N then s.raise (.memFault .stackUnderflow s.sp.toNat)
  else if s.sp.toNat + 8 > Config.N then s.raise (.memFault .stackUnderflow ((s.sp.toNat : Int) + 4))
  else
    let (r, s1) := s.popWord
    let (l, s2) := s1.popWord
    s2.pushWord (f l r)

/-- The common part of the unary instructions (R153). -/
def State.unaryOp (s : State) (g : Word → Word) : State :=
  if s.sp.toNat + 4 > Config.N then s.raise (.memFault .stackUnderflow s.sp.toNat)
  else
    let (x, s1) := s.popWord
    s1.pushWord (g x)

/-! ## The instructions -/

/-- ADD (R140, R141). -/
def execAdd (s : State) : Host.Outcome State Fault Refusal := .next (s.binaryOp addWord)

/-- SUB (R140, R142). -/
def execSub (s : State) : Host.Outcome State Fault Refusal := .next (s.binaryOp subWord)

/-- MUL (R140, R143). -/
def execMul (s : State) : Host.Outcome State Fault Refusal := .next (s.binaryOp mulWord)

/-- DIV (R140, R144). -/
def execDiv (s : State) : Host.Outcome State Fault Refusal := .next (s.binaryOp (divWord Config.params.divmodSigned))

/-- MOD (R140, R145). -/
def execMod (s : State) : Host.Outcome State Fault Refusal := .next (s.binaryOp (modWord Config.params.divmodSigned))

/-- AND (R140, R146). -/
def execAnd (s : State) : Host.Outcome State Fault Refusal := .next (s.binaryOp andWord)

/-- OR (R140, R147). -/
def execOr (s : State) : Host.Outcome State Fault Refusal := .next (s.binaryOp orWord)

/-- XOR (R140, R148). -/
def execXor (s : State) : Host.Outcome State Fault Refusal := .next (s.binaryOp xorWord)

/-- SHL (R140, R149). -/
def execShl (s : State) : Host.Outcome State Fault Refusal := .next (s.binaryOp (shlWord Config.params.shiftMasked))

/-- SHR (R140, R150). -/
def execShr (s : State) : Host.Outcome State Fault Refusal := .next (s.binaryOp (shrWord Config.params.shiftMasked))

/-- SAR (R140, R151). -/
def execSar (s : State) : Host.Outcome State Fault Refusal := .next (s.binaryOp (sarWord Config.params.shiftMasked))

/-- NEG (R153, R154). -/
def execNeg (s : State) : Host.Outcome State Fault Refusal := .next (s.unaryOp negWord)

/-- NOT (R153, R155). -/
def execNot (s : State) : Host.Outcome State Fault Refusal := .next (s.unaryOp notWord)

/-! ## Unrecognized sub-opcodes: nothing is popped and the stack is not examined -/

/-- Binary sub-opcode 0xB: no-op (R152). -/
def execArith2UnrecognizedB (s : State) : Host.Outcome State Fault Refusal := .next s
/-- Binary sub-opcode 0xC: no-op (R152). -/
def execArith2UnrecognizedC (s : State) : Host.Outcome State Fault Refusal := .next s
/-- Binary sub-opcode 0xD: no-op (R152). -/
def execArith2UnrecognizedD (s : State) : Host.Outcome State Fault Refusal := .next s
/-- Binary sub-opcode 0xE: no-op (R152). -/
def execArith2UnrecognizedE (s : State) : Host.Outcome State Fault Refusal := .next s
/-- Binary sub-opcode 0xF: no-op (R152). -/
def execArith2UnrecognizedF (s : State) : Host.Outcome State Fault Refusal := .next s
/-- Unary sub-opcode 0x2: no-op (R156). -/
def execArith1Unrecognized2 (s : State) : Host.Outcome State Fault Refusal := .next s
/-- Unary sub-opcode 0x3: no-op (R156). -/
def execArith1Unrecognized3 (s : State) : Host.Outcome State Fault Refusal := .next s
/-- Unary sub-opcode 0x4: no-op (R156). -/
def execArith1Unrecognized4 (s : State) : Host.Outcome State Fault Refusal := .next s
/-- Unary sub-opcode 0x5: no-op (R156). -/
def execArith1Unrecognized5 (s : State) : Host.Outcome State Fault Refusal := .next s
/-- Unary sub-opcode 0x6: no-op (R156). -/
def execArith1Unrecognized6 (s : State) : Host.Outcome State Fault Refusal := .next s
/-- Unary sub-opcode 0x7: no-op (R156). -/
def execArith1Unrecognized7 (s : State) : Host.Outcome State Fault Refusal := .next s
/-- Unary sub-opcode 0x8: no-op (R156). -/
def execArith1Unrecognized8 (s : State) : Host.Outcome State Fault Refusal := .next s
/-- Unary sub-opcode 0x9: no-op (R156). -/
def execArith1Unrecognized9 (s : State) : Host.Outcome State Fault Refusal := .next s
/-- Unary sub-opcode 0xA: no-op (R156). -/
def execArith1UnrecognizedA (s : State) : Host.Outcome State Fault Refusal := .next s
/-- Unary sub-opcode 0xB: no-op (R156). -/
def execArith1UnrecognizedB (s : State) : Host.Outcome State Fault Refusal := .next s
/-- Unary sub-opcode 0xC: no-op (R156). -/
def execArith1UnrecognizedC (s : State) : Host.Outcome State Fault Refusal := .next s
/-- Unary sub-opcode 0xD: no-op (R156). -/
def execArith1UnrecognizedD (s : State) : Host.Outcome State Fault Refusal := .next s
/-- Unary sub-opcode 0xE: no-op (R156). -/
def execArith1UnrecognizedE (s : State) : Host.Outcome State Fault Refusal := .next s
/-- Unary sub-opcode 0xF: no-op (R156). -/
def execArith1UnrecognizedF (s : State) : Host.Outcome State Fault Refusal := .next s

end Sys2Proof.Machine
end

