-- ==== Sys2Proof/Machine/Flags.lean ====
section
/-! DEFINITION. The machine has no flags (spec/10_state.md R23): no instruction records carry, overflow, zero or sign, and the
conditional jumps compare stack words. This file holds their conditions: `C(l, r)` of family 0x8 (spec/44_control.md R174 to
R180) and `C(x)` of family 0x9 (R182 to R185). `signed` is CMP_SIGNED (R4). -/

namespace Sys2Proof.Machine

/-- JEQ (R174). -/
def condEq (l r : Word) : Bool := decide (l = r)

/-- JNE (R175). -/
def condNe (l r : Word) : Bool := decide (l ≠ r)

/-- JLT (R176). -/
def condLt (signed : Bool) (l r : Word) : Bool :=
  if signed then decide (l.toInt < r.toInt) else decide (l.toNat < r.toNat)

/-- JGT (R177). -/
def condGt (signed : Bool) (l r : Word) : Bool :=
  if signed then decide (l.toInt > r.toInt) else decide (l.toNat > r.toNat)

/-- JLE (R178). -/
def condLe (signed : Bool) (l r : Word) : Bool :=
  if signed then decide (l.toInt ≤ r.toInt) else decide (l.toNat ≤ r.toNat)

/-- JGE (R179). -/
def condGe (signed : Bool) (l r : Word) : Bool :=
  if signed then decide (l.toInt ≥ r.toInt) else decide (l.toNat ≥ r.toNat)

/-- The two undefined codes: always false (R180). -/
def condUndefined (_ _ : Word) : Bool := false

/-- JZ (R182). -/
def condZero (x : Word) : Bool := decide (x.toNat = 0)

/-- JNZ (R183). -/
def condNonzero (x : Word) : Bool := decide (x.toNat ≠ 0)

/-- JNEG (R184). -/
def condNeg (x : Word) : Bool := decide (x.toInt < 0)

/-- JNNEG (R185). -/
def condNonneg (x : Word) : Bool := decide (x.toInt ≥ 0)

end Sys2Proof.Machine
end

