-- ==== Sys2Proof/Machine/Control.lean ====
section
/-! DEFINITION. Control transfer (spec/44_control.md): CALL, RET, GOTO, the conditional jumps, and the unassigned opcodes of
spec/40_cycle.md R94. PC holds `PC1`; every relative target is `PC0 + off`. -/

namespace Sys2Proof.Machine

/-- CALL: the push comes before the target check (R170). -/
def State.call (s : State) (off : Int) : State :=
  if s.sp.toNat < 4 then s.raise (.memFault .stackOverflow ((s.sp.toNat : Int) - 4))
  else (s.pushWord s.pc).redirect (s.pc0 + off)

/-- CALL (R170). -/
def execCall (off : Int) (s : State) : Host.Outcome State Fault Refusal := .next (s.call off)

/-- RET where `present` is HAS_RET; absent, a no-op (R94, R171). -/
def State.retWith (present : Bool) (count : Nat) (s : State) : State :=
  if present then
    let a := s.sp.toNat + count
    if a + 4 > Config.N then s.raise (.memFault .stackUnderflow a)
    else
      let t := (s.mem.readWord a).toNat
      if t ≥ Config.N then (s.emit [.jumpFaultDiag t]).raise (.jumpFault t)
      else (s.setSp (BitVec.ofNat 32 (a + 4))).setPc (BitVec.ofNat 32 t)
  else s

/-- RET (R171). -/
def execRet (count : Nat) (s : State) : Host.Outcome State Fault Refusal :=
  .next (s.retWith Config.params.hasRet count)

/-- GOTO (R172). -/
def execGoto (off : Int) (s : State) : Host.Outcome State Fault Refusal := .next (s.redirect (s.pc0 + off))

/-- The common part of the binary conditional jumps: both operands are peeked; the target is computed and checked only where
the condition holds (R173). -/
def State.binaryJump (s : State) (cond : Word → Word → Bool) (off : Int) : State :=
  if s.sp.toNat + 4 > Config.N then s.raise (.memFault .stackUnderflow s.sp.toNat)
  else if cond s.peekLeft s.peekTop then s.redirect (s.pc0 + off)
  else s

/-- The common part of the unary conditional jumps (R181). -/
def State.unaryJump (s : State) (cond : Word → Bool) (off : Int) : State :=
  if s.sp.toNat + 4 > Config.N then s.raise (.memFault .stackUnderflow s.sp.toNat)
  else if cond s.peekTop then s.redirect (s.pc0 + off)
  else s

/-- JEQ (R173, R174). -/
def execJeq (off : Int) (s : State) : Host.Outcome State Fault Refusal := .next (s.binaryJump condEq off)

/-- JNE (R173, R175). -/
def execJne (off : Int) (s : State) : Host.Outcome State Fault Refusal := .next (s.binaryJump condNe off)

/-- JLT (R173, R176). -/
def execJlt (off : Int) (s : State) : Host.Outcome State Fault Refusal := .next (s.binaryJump (condLt Config.params.cmpSigned) off)

/-- JGT (R173, R177). -/
def execJgt (off : Int) (s : State) : Host.Outcome State Fault Refusal := .next (s.binaryJump (condGt Config.params.cmpSigned) off)

/-- JLE (R173, R178). -/
def execJle (off : Int) (s : State) : Host.Outcome State Fault Refusal := .next (s.binaryJump (condLe Config.params.cmpSigned) off)

/-- JGE (R173, R179). -/
def execJge (off : Int) (s : State) : Host.Outcome State Fault Refusal := .next (s.binaryJump (condGe Config.params.cmpSigned) off)

/-- Undefined condition 6: the operands are still peeked, the jump is never taken (R180). -/
def execJbUndefined6 (s : State) : Host.Outcome State Fault Refusal := .next (s.binaryJump condUndefined 0)

/-- Undefined condition 7: the operands are still peeked, the jump is never taken (R180). -/
def execJbUndefined7 (s : State) : Host.Outcome State Fault Refusal := .next (s.binaryJump condUndefined 0)

/-- JZ (R181, R182). -/
def execJz (off : Int) (s : State) : Host.Outcome State Fault Refusal := .next (s.unaryJump condZero off)

/-- JNZ (R181, R183). -/
def execJnz (off : Int) (s : State) : Host.Outcome State Fault Refusal := .next (s.unaryJump condNonzero off)

/-- JNEG (R181, R184). -/
def execJneg (off : Int) (s : State) : Host.Outcome State Fault Refusal := .next (s.unaryJump condNeg off)

/-- JNNEG (R181, R185). -/
def execJnneg (off : Int) (s : State) : Host.Outcome State Fault Refusal := .next (s.unaryJump condNonneg off)

/-- NOP.A, the unassigned opcode 0xA: PC is already `PC1` and nothing else changes (R94). -/
def execNopA (s : State) : Host.Outcome State Fault Refusal := .next s

/-- NOP.C, the unassigned opcode 0xC: PC is already `PC1` and nothing else changes (R94). -/
def execNopC (s : State) : Host.Outcome State Fault Refusal := .next s

end Sys2Proof.Machine
end

