-- ==== Sys2Proof/Machine/Misc.lean ====
section
/-! DEFINITION. Family 0x0 (spec/41_misc.md): EXIT, SWAP, INPUT, STINPUT, DEBUG and the reserved sub-opcodes. A meaning runs in
the state after the fetch, where PC holds `PC1`. -/

namespace Sys2Proof.Machine

/-- EXIT (R111, R207). -/
def execExit (code : Int) (s : State) : Host.Outcome State Fault Refusal :=
  .next (s.setStatus (.exited code))

/-- The effect of SWAP: the two words are exchanged where both lie in bounds, else nothing happens (R44, R112). -/
def State.swapWords (s : State) (a b : Int) : State :=
  if inBounds a ∧ inBounds b then
    s.setMem ((s.mem.writeWord a.toNat (s.mem.readWord b.toNat)).writeWord b.toNat (s.mem.readWord a.toNat))
  else s

/-- SWAP (R112). -/
def execSwap (offA offB : Int) (s : State) : Host.Outcome State Fault Refusal :=
  .next (s.swapWords (s.spRel offA) (s.spRel offB))

/-- The rest of INPUT once the host has answered `v`: prompt, word, push (R113). -/
def State.takeWord (s : State) (v : Word) : State := (s.emit [.prompt, .inWord v]).push v

/-- INPUT (R113, R230). -/
def execInput (s : State) : Host.Outcome State Fault Refusal :=
  match s.host.nextWord with
  | some (v, h) => .next ((s.setHost h).takeWord v)
  | none => .fault .hostSilent

/-- The rest of STINPUT once the host has answered `line`: the string is the line's first `max` bytes; room for all its chunks
is checked before any push (R114). -/
def State.takeLine (s : State) (max : Nat) (line : List Byte) : State :=
  let str := line.take max
  let room := 4 * chunkCount str.length
  let s1 := s.emit [.inLine line]
  if s.sp.toNat < room then s1.raise (.memFault .stackOverflow ((s.sp.toNat : Int) - room))
  else s1.pushAll (chunksInPushOrder str)

/-- The halt of a reserved sub-opcode (R116, R203). -/
def illegalMisc (sub : BitVec 4) (s : State) : Host.Outcome State Fault Refusal :=
  .next (s.raise (.illegalMisc sub))

/-- STINPUT where `present` is HAS_STINPUT; absent, a reserved sub-opcode (R110, R114, R230). -/
def stinputWith (present : Bool) (max : Nat) (s : State) : Host.Outcome State Fault Refusal :=
  if present then
    match s.host.nextLine with
    | some (line, h) => .next ((s.setHost h).takeLine max line)
    | none => .fault .hostSilent
  else illegalMisc 0x5 s

/-- STINPUT (R114). -/
def execStinput (max : Nat) (s : State) : Host.Outcome State Fault Refusal :=
  stinputWith Config.params.hasStinput max s

/-- DEBUG: the PC reported is `PC1` (R115). -/
def execDebug (imm24 : Nat) (s : State) : Host.Outcome State Fault Refusal :=
  .next (s.emit [.debug imm24 s.pc s.sp])

/-- Reserved sub-opcode 0x2 (R116). -/
def execMiscReserved2 (s : State) : Host.Outcome State Fault Refusal := illegalMisc 0x2 s
/-- Reserved sub-opcode 0x3 (R116). -/
def execMiscReserved3 (s : State) : Host.Outcome State Fault Refusal := illegalMisc 0x3 s
/-- Reserved sub-opcode 0x6 (R116). -/
def execMiscReserved6 (s : State) : Host.Outcome State Fault Refusal := illegalMisc 0x6 s
/-- Reserved sub-opcode 0x7 (R116). -/
def execMiscReserved7 (s : State) : Host.Outcome State Fault Refusal := illegalMisc 0x7 s
/-- Reserved sub-opcode 0x8 (R116). -/
def execMiscReserved8 (s : State) : Host.Outcome State Fault Refusal := illegalMisc 0x8 s
/-- Reserved sub-opcode 0x9 (R116). -/
def execMiscReserved9 (s : State) : Host.Outcome State Fault Refusal := illegalMisc 0x9 s
/-- Reserved sub-opcode 0xA (R116). -/
def execMiscReservedA (s : State) : Host.Outcome State Fault Refusal := illegalMisc 0xA s
/-- Reserved sub-opcode 0xB (R116). -/
def execMiscReservedB (s : State) : Host.Outcome State Fault Refusal := illegalMisc 0xB s
/-- Reserved sub-opcode 0xC (R116). -/
def execMiscReservedC (s : State) : Host.Outcome State Fault Refusal := illegalMisc 0xC s
/-- Reserved sub-opcode 0xD (R116). -/
def execMiscReservedD (s : State) : Host.Outcome State Fault Refusal := illegalMisc 0xD s
/-- Reserved sub-opcode 0xE (R116). -/
def execMiscReservedE (s : State) : Host.Outcome State Fault Refusal := illegalMisc 0xE s

end Sys2Proof.Machine
end

