-- ==== Sys2Proof/Machine/Output.lean ====
section
/-! DEFINITION. Output (spec/45_output.md): PRINTS, PRINT.fmt, DUMP. Their only effect is events on the OUT port. -/

namespace Sys2Proof.Machine

/-- The events of PRINTS for the bytes of one word, and whether a 0x00 byte ended the print; a 0x01 byte emits nothing (R190). -/
def printBytes : List Byte → List Event × Bool
  | [] => ([], false)
  | b :: bs =>
    if b = 0x00 then ([], true)
    else
      let (es, stop) := printBytes bs
      if b = 0x01 then (es, stop) else (.char b :: es, stop)

/-- PRINTS's loop over words from address `a` up. `fuel` bounds the words read; `N / 4` is enough (R190). -/
def printWords (m : Memory) : Nat → Nat → List Event
  | 0, _ => []
  | fuel + 1, a =>
    if a + 4 > Config.N then []
    else
      let (es, stop) := printBytes (bytesOfWord (m.readWord a))
      if stop then es else es ++ printWords m fuel (a + 4)

/-- PRINTS: only a negative start address is a fault (R44, R190). -/
def State.printString (s : State) (off : Int) : State :=
  if s.spRel off < 0 then s.raise (.memFault .badAddress (s.spRel off))
  else s.emit (printWords s.mem (Config.N / 4) (s.spRel off).toNat)

/-- PRINTS (R190). -/
def execPrints (off : Int) (s : State) : Host.Outcome State Fault Refusal := .next (s.printString off)

/-- The common part of PRINT.fmt (R191). -/
def State.printNum (s : State) (fmt : NumFmt) (off : Int) : State :=
  if inBounds (s.spRel off) then s.emit [.num fmt (s.mem.readWord (s.spRel off).toNat)]
  else s.raise (.memFault .badAddress (s.spRel off))

/-- The integer a `Num` event shows: DEC the signed view, the others the unsigned view (R191 to R195). -/
def NumFmt.shown (fmt : NumFmt) (v : Word) : Int :=
  match fmt with
  | .dec => v.toInt
  | .hex => v.toNat
  | .bin => v.toNat
  | .oct => v.toNat

/-- The base of a format (R192 to R195). -/
def NumFmt.radix : NumFmt → Nat
  | .dec => 10
  | .hex => 16
  | .bin => 2
  | .oct => 8

/-- PRINT.DEC (R191, R192). -/
def execPrintDec (off : Int) (s : State) : Host.Outcome State Fault Refusal := .next (s.printNum .dec off)

/-- PRINT.HEX (R191, R193). -/
def execPrintHex (off : Int) (s : State) : Host.Outcome State Fault Refusal := .next (s.printNum .hex off)

/-- PRINT.BIN (R191, R194). -/
def execPrintBin (off : Int) (s : State) : Host.Outcome State Fault Refusal := .next (s.printNum .bin off)

/-- PRINT.OCT (R191, R195). -/
def execPrintOct (off : Int) (s : State) : Host.Outcome State Fault Refusal := .next (s.printNum .oct off)

/-- DUMP's loop over words from address `a` up. `fuel` bounds the words read; `N / 4` is enough (R196). -/
def dumpWords (m : Memory) : Nat → Nat → List Event
  | 0, _ => []
  | fuel + 1, a =>
    if a + 4 ≤ Config.N then .dumpLine a (m.readWord a) :: dumpWords m fuel (a + 4) else []

/-- DUMP (R44, R196). -/
def execDump (s : State) : Host.Outcome State Fault Refusal :=
  .next (s.emit (dumpWords s.mem (Config.N / 4) s.sp.toNat))

end Sys2Proof.Machine
end

