-- ==== Sys2Proof/Machine/Stack.lean ====
section
/-! DEFINITION. The stack instructions (spec/42_stack.md): POP, DUP, PUSH. -/

namespace Sys2Proof.Machine

/-- POP: SP advances by the count, clamped to `N`; nothing is read or written (R44, R130). -/
def execPop (count : Nat) (s : State) : Host.Outcome State Fault Refusal :=
  .next (s.setSp (wrap32 (min (s.sp.toNat + popCount count) Config.N : Nat)))

/-- DUP where `present` is HAS_DUP; absent, a no-op (R94, R131). The address uses the SP of before the push. -/
def State.dupWith (present : Bool) (off : Int) (s : State) : State :=
  if present then
    if inBounds (s.spRel off) then s.push (s.mem.readWord (s.spRel off).toNat)
    else s.raise (.memFault .badAddress (s.spRel off))
  else s

/-- DUP (R131). -/
def execDup (off : Int) (s : State) : Host.Outcome State Fault Refusal :=
  .next (s.dupWith Config.params.hasDup off)

/-- PUSH (R132). -/
def execPush (imm28 : Nat) (s : State) : Host.Outcome State Fault Refusal :=
  .next (s.push (widenImm28 Config.params.pushSext imm28))

end Sys2Proof.Machine
end

