-- ==== Sys2Proof/Machine/Dispatch.lean ====
section
/-! DEFINITION. One arm per instruction, each one direct call of its meaning. -/

namespace Sys2Proof.Machine

def exec (i : Instr) (s : State) : Host.Outcome State Fault Refusal :=
  match i with
  | .exit code => Sys2Proof.Machine.execExit code s
  | .swap offA offB => Sys2Proof.Machine.execSwap offA offB s
  | .miscReserved2 => Sys2Proof.Machine.execMiscReserved2 s
  | .miscReserved3 => Sys2Proof.Machine.execMiscReserved3 s
  | .input => Sys2Proof.Machine.execInput s
  | .stinput max => Sys2Proof.Machine.execStinput max s
  | .miscReserved6 => Sys2Proof.Machine.execMiscReserved6 s
  | .miscReserved7 => Sys2Proof.Machine.execMiscReserved7 s
  | .miscReserved8 => Sys2Proof.Machine.execMiscReserved8 s
  | .miscReserved9 => Sys2Proof.Machine.execMiscReserved9 s
  | .miscReservedA => Sys2Proof.Machine.execMiscReservedA s
  | .miscReservedB => Sys2Proof.Machine.execMiscReservedB s
  | .miscReservedC => Sys2Proof.Machine.execMiscReservedC s
  | .miscReservedD => Sys2Proof.Machine.execMiscReservedD s
  | .miscReservedE => Sys2Proof.Machine.execMiscReservedE s
  | .debug imm24 => Sys2Proof.Machine.execDebug imm24 s
  | .pop count => Sys2Proof.Machine.execPop count s
  | .add => Sys2Proof.Machine.execAdd s
  | .sub => Sys2Proof.Machine.execSub s
  | .mul => Sys2Proof.Machine.execMul s
  | .div => Sys2Proof.Machine.execDiv s
  | .mod => Sys2Proof.Machine.execMod s
  | .and => Sys2Proof.Machine.execAnd s
  | .or => Sys2Proof.Machine.execOr s
  | .xor => Sys2Proof.Machine.execXor s
  | .shl => Sys2Proof.Machine.execShl s
  | .shr => Sys2Proof.Machine.execShr s
  | .sar => Sys2Proof.Machine.execSar s
  | .arith2UnrecognizedB => Sys2Proof.Machine.execArith2UnrecognizedB s
  | .arith2UnrecognizedC => Sys2Proof.Machine.execArith2UnrecognizedC s
  | .arith2UnrecognizedD => Sys2Proof.Machine.execArith2UnrecognizedD s
  | .arith2UnrecognizedE => Sys2Proof.Machine.execArith2UnrecognizedE s
  | .arith2UnrecognizedF => Sys2Proof.Machine.execArith2UnrecognizedF s
  | .neg => Sys2Proof.Machine.execNeg s
  | .not => Sys2Proof.Machine.execNot s
  | .arith1Unrecognized2 => Sys2Proof.Machine.execArith1Unrecognized2 s
  | .arith1Unrecognized3 => Sys2Proof.Machine.execArith1Unrecognized3 s
  | .arith1Unrecognized4 => Sys2Proof.Machine.execArith1Unrecognized4 s
  | .arith1Unrecognized5 => Sys2Proof.Machine.execArith1Unrecognized5 s
  | .arith1Unrecognized6 => Sys2Proof.Machine.execArith1Unrecognized6 s
  | .arith1Unrecognized7 => Sys2Proof.Machine.execArith1Unrecognized7 s
  | .arith1Unrecognized8 => Sys2Proof.Machine.execArith1Unrecognized8 s
  | .arith1Unrecognized9 => Sys2Proof.Machine.execArith1Unrecognized9 s
  | .arith1UnrecognizedA => Sys2Proof.Machine.execArith1UnrecognizedA s
  | .arith1UnrecognizedB => Sys2Proof.Machine.execArith1UnrecognizedB s
  | .arith1UnrecognizedC => Sys2Proof.Machine.execArith1UnrecognizedC s
  | .arith1UnrecognizedD => Sys2Proof.Machine.execArith1UnrecognizedD s
  | .arith1UnrecognizedE => Sys2Proof.Machine.execArith1UnrecognizedE s
  | .arith1UnrecognizedF => Sys2Proof.Machine.execArith1UnrecognizedF s
  | .prints off => Sys2Proof.Machine.execPrints off s
  | .call off => Sys2Proof.Machine.execCall off s
  | .ret count => Sys2Proof.Machine.execRet count s
  | .goto off => Sys2Proof.Machine.execGoto off s
  | .jeq off => Sys2Proof.Machine.execJeq off s
  | .jne off => Sys2Proof.Machine.execJne off s
  | .jlt off => Sys2Proof.Machine.execJlt off s
  | .jgt off => Sys2Proof.Machine.execJgt off s
  | .jle off => Sys2Proof.Machine.execJle off s
  | .jge off => Sys2Proof.Machine.execJge off s
  | .jbUndefined6 => Sys2Proof.Machine.execJbUndefined6 s
  | .jbUndefined7 => Sys2Proof.Machine.execJbUndefined7 s
  | .jz off => Sys2Proof.Machine.execJz off s
  | .jnz off => Sys2Proof.Machine.execJnz off s
  | .jneg off => Sys2Proof.Machine.execJneg off s
  | .jnneg off => Sys2Proof.Machine.execJnneg off s
  | .nopA => Sys2Proof.Machine.execNopA s
  | .dup off => Sys2Proof.Machine.execDup off s
  | .nopC => Sys2Proof.Machine.execNopC s
  | .printDec off => Sys2Proof.Machine.execPrintDec off s
  | .printHex off => Sys2Proof.Machine.execPrintHex off s
  | .printBin off => Sys2Proof.Machine.execPrintBin off s
  | .printOct off => Sys2Proof.Machine.execPrintOct off s
  | .dump => Sys2Proof.Machine.execDump s
  | .push imm28 => Sys2Proof.Machine.execPush imm28 s

end Sys2Proof.Machine
end

