-- ==== Sys2Proof/Machine/Step.lean ====
section
/-! DEFINITION. The one transition of the machine (spec/40_cycle.md R90 to R93), and the placing of a word where the next step
fetches it. -/

namespace Sys2Proof.Machine

/-- One step: pre-check, fetch with PC advance, dispatch (R90 to R93). It is defined only where STATUS is Running (R90, R212). -/
def step (s : State) : Host.Outcome State Fault Refusal :=
  match s.status with
  | .running =>
    if s.fetchFits then exec (decodeWord s.fetchedWord) s.advance
    else .next (s.raise (.fetchBound s.pc))
  | .exited _ => .fault .notRunning
  | .halted _ => .fault .notRunning

/-- `s` with the instruction whose bits are the low `nbits` of `w` stored at PC, so that the very next step runs it. Where no
word lies at PC the fetch needs another PC, and 0 is taken; where STATUS is not Running no step is taken, and it becomes Running
(notes/assumptions/5.md). -/
def State.withFetchWord (s : State) (nbits w : Nat) : State :=
  let s1 := if s.fetchFits then s else s.setPc 0
  (s1.setMem (s1.mem.writeWord s1.pc.toNat (BitVec.ofNat 32 (w % 2 ^ nbits)))).setStatus .running

end Sys2Proof.Machine
end

