-- ==== Sys2Proof/Machine/Loader.lean ====
section
/-! DEFINITION. The loader's contract, as far as it fixes the reset state (spec/70_reset_and_hazards.md R220 to R225). The loader
is outside the core (spec/00_scope.md R3 (a)): no instruction calls it. An I/O failure is the host's (notes/assumptions/9.md). -/

namespace Sys2Proof.Machine

/-- A load's failure: the core takes no step and has no state (R224). Raised by `Loader.load` only; safe. -/
inductive LoadError where
  /-- the file does not begin with the marker (R221). -/
  | invalidFormat
  /-- the body is longer than `N` (R222). -/
  | programTooLarge
deriving DecidableEq, Repr

/-- The marker in file order (R221, R225). -/
def Loader.marker : List Byte := [0xDE, 0xAD, 0xBE, 0xEF]

/-- The memory that holds the bytes from address `a` up and `Memory.unlisted` elsewhere. -/
def Memory.ofBytes (a : Nat) : List Byte → Memory
  | [] => []
  | b :: bs => if b = Memory.unlisted then Memory.ofBytes (a + 1) bs else (a, b) :: Memory.ofBytes (a + 1) bs

/-- The reset state of a program body: the body from offset 0, zeros above it (R29, R220, R223). -/
def State.loaded (body : List Byte) : State := State.reset.setMem (Memory.ofBytes 0 body)

/-- The loader: marker check, size check, image (R221 to R223). -/
def Loader.load (file : List Byte) : Except LoadError State :=
  if file.take 4 = Loader.marker then
    if (file.drop 4).length > Config.N then .error .programTooLarge else .ok (State.loaded (file.drop 4))
  else .error .invalidFormat

end Sys2Proof.Machine
end

