-- ==== Sys2Proof/Safety.lean ====
section
/-! DEFINITION. What the claims call a legal state, a good end of a run, and what the host makes of it. -/

namespace Sys2Proof.Machine

/-- The info a cause records is of the kind its row of R201 says. -/
def Cause.valid : Cause → Bool
  | .fetchBound pc => decide (pc.toNat + 4 > Config.N)
  | .illegalMisc sub => decide (sub ∉ [0x0#4, 0x1#4, 0x4#4, 0xF#4] ∧ (sub = 0x5#4 → Config.params.hasStinput = false))
  | .jumpFault t => decide (t < 0 ∨ (Config.N : Int) ≤ t)
  | .memFault .stackOverflow a => decide (a < 0)
  | .memFault .stackUnderflow a => decide (a + 4 > (Config.N : Int))
  | .memFault .badAddress a => decide (¬ inBounds a)

/-- STATUS is one the rules can set (R24, R69, R201). -/
def Status.valid : Status → Bool
  | .running => true
  | .exited code => decide (-128 ≤ code ∧ code ≤ 127)
  | .halted cause => cause.valid

/-- The payload of an event is of the kind its row of R26 says. -/
def Event.valid : Event → Bool
  | .prompt => true
  | .char b => decide (2 ≤ b.toNat)
  | .num _ _ => true
  | .dumpLine a _ => decide (a + 4 ≤ Config.N)
  | .debug imm24 pc sp => decide (imm24 < 2 ^ 24 ∧ pc.toNat ≤ Config.N ∧ sp.toNat ≤ Config.N)
  | .jumpFaultDiag t => decide (t < 0 ∨ (Config.N : Int) ≤ t)
  | .inWord _ => true
  | .inLine _ => true

/-- The invariant of the machine: PC and SP within `0 .. N` (R30), memory canonical, STATUS and every event as the spec's tables
allow (R24, R26, R201). -/
abbrev State.Inv (s : State) : Prop :=
  s.pc.toNat ≤ Config.N ∧ s.sp.toNat ≤ Config.N ∧ s.mem.wf ∧ s.status.valid = true ∧ ∀ e ∈ s.trace, e.valid = true

/-- The one good end of a run (R207). -/
def Status.goodEnd : Status → Bool
  | .exited _ => true
  | .running => false
  | .halted _ => false

/-- The process status the host reports at the end of a run: the exit code, or HALT_STATUS for every cause (R209). -/
def Status.processStatus : Status → Option Int
  | .running => none
  | .exited code => some code
  | .halted _ => some Config.params.haltStatus

/-- One step leads from `s` to `t`. -/
def State.StepsTo (s t : State) : Prop := step s = .next t

/-- `t` is reached from `s` in some number of steps. -/
def State.Reaches (s t : State) : Prop := Relation.ReflTransGen State.StepsTo s t

end Sys2Proof.Machine
end

