-- ==== Sys2Proof/Certificates/Slice0/Obligations.lean ====
section
/-! DEFINITION. The statements for the provers. `exec i s` runs instruction `i` in the state after the fetch, where PC holds
`PC1 = PC0 + 4` (R92), so `PC0` is `s.pc0`. A statement about an instruction gives the whole next state: each register, STATUS,
the trace, the host's side of the IN port, and every byte of memory. -/

namespace Sys2Proof.Claims

open Sys2Proof.Machine

/-- The instruction answers a next state, and it has the property. -/
def Completes (i : Instr) (s : State) (P : State → Prop) : Prop := ∃ t, exec i s = .next t ∧ P t

/-- Every byte of memory reads as before. -/
def MemSame (s t : State) : Prop := ∀ x, t.mem.read x = s.mem.read x

/-- Every byte outside the `n` bytes at `a` reads as before. -/
def MemSameOutside (s t : State) (a n : Nat) : Prop := ∀ x, x < a ∨ a + n ≤ x → t.mem.read x = s.mem.read x

/-- SP, memory, STATUS, the trace and the IN port are as before: only PC may differ. -/
def OnlyPcMoves (s t : State) : Prop :=
  t.sp = s.sp ∧ MemSame s t ∧ t.status = s.status ∧ t.trace = s.trace ∧ t.host = s.host

/-- PC, SP, memory and STATUS are as before; the events are added to the trace and the IN port becomes `h`. -/
def OnlyEmits (s t : State) (es : List Event) (h : HostPort) : Prop :=
  t.pc = s.pc ∧ t.sp = s.sp ∧ MemSame s t ∧ t.status = s.status ∧ t.trace = s.trace ++ es ∧ t.host = h

/-- The state at a halt (R205): STATUS is `Halted(cause)`, PC, SP and memory are as before, the events stay emitted. -/
def HaltsWith (s t : State) (cause : Cause) (es : List Event) (h : HostPort) : Prop :=
  t.status = .halted cause ∧ t.pc = s.pc ∧ t.sp = s.sp ∧ MemSame s t ∧ t.trace = s.trace ++ es ∧ t.host = h

/-- A halt that emits nothing and asks the host for nothing. -/
def Halts (s t : State) (cause : Cause) : Prop := HaltsWith s t cause [] s.host

/-- One word is pushed (R96): SP is 4 lower, the word is at the new SP, and no other byte changes. -/
def Pushes (s t : State) (v : Word) (es : List Event) (h : HostPort) : Prop :=
  t.pc = s.pc ∧ t.sp.toNat = s.sp.toNat - 4 ∧ t.mem.readWord (s.sp.toNat - 4) = v ∧
    MemSameOutside s t (s.sp.toNat - 4) 4 ∧ t.status = s.status ∧ t.trace = s.trace ++ es ∧ t.host = h

/-- The outcome of `Redirect(target)` (R100): PC takes a target in `[0, N)`; another target halts, with the diagnostic. -/
def RedirectsTo (s t : State) (target : Int) : Prop :=
  if 0 ≤ target ∧ target < Config.N then (t.pc.toNat : Int) = target ∧ OnlyPcMoves s t
  else HaltsWith s t (.jumpFault target) [.jumpFaultDiag target] s.host

/-- The net effect of a binary instruction with result `v` (R140): SP is 4 higher, the result is over the left operand. -/
def LeavesBinary (s t : State) (v : Word) : Prop :=
  t.pc = s.pc ∧ t.sp.toNat = s.sp.toNat + 4 ∧ t.mem.readWord (s.sp.toNat + 4) = v ∧
    MemSameOutside s t (s.sp.toNat + 4) 4 ∧ t.status = s.status ∧ t.trace = s.trace ∧ t.host = s.host

/-- The net effect of a unary instruction with result `v` (R153): the word at SP is replaced. -/
def LeavesUnary (s t : State) (v : Word) : Prop :=
  t.pc = s.pc ∧ t.sp = s.sp ∧ t.mem.readWord s.sp.toNat = v ∧ MemSameOutside s t s.sp.toNat 4 ∧
    t.status = s.status ∧ t.trace = s.trace ∧ t.host = s.host

/-- The instruction computes `f left right` from the two top words, wherever both lie in memory (R140). -/
def ComputesBinary (i : Instr) (f : Word → Word → Word) : Prop :=
  ∀ s : State, s.sp.toNat + 8 ≤ Config.N →
    Completes i s fun t => LeavesBinary s t (f (s.mem.readWord (s.sp.toNat + 4)) (s.mem.readWord s.sp.toNat))

/-- The instruction computes `g x` from the top word, wherever it lies in memory (R153). -/
def ComputesUnary (i : Instr) (g : Word → Word) : Prop :=
  ∀ s : State, s.sp.toNat + 4 ≤ Config.N → Completes i s fun t => LeavesUnary s t (g (s.mem.readWord s.sp.toNat))

/-- The eleven binary instructions with their sub-opcodes (R75). -/
def binaryInstrs : List (Instr × Nat) :=
  [(.add, 0x0), (.sub, 0x1), (.mul, 0x2), (.div, 0x3), (.mod, 0x4), (.and, 0x5), (.or, 0x6), (.xor, 0x7),
    (.shl, 0x8), (.shr, 0x9), (.sar, 0xA)]

/-- The unrecognized sub-opcodes of the two arithmetic families (R75, R76). -/
def unrecognizedInstrs : List Instr :=
  [.arith2UnrecognizedB, .arith2UnrecognizedC, .arith2UnrecognizedD, .arith2UnrecognizedE, .arith2UnrecognizedF] ++
  [.arith1Unrecognized2, .arith1Unrecognized3, .arith1Unrecognized4, .arith1Unrecognized5, .arith1Unrecognized6,
    .arith1Unrecognized7, .arith1Unrecognized8, .arith1Unrecognized9, .arith1UnrecognizedA, .arith1UnrecognizedB,
    .arith1UnrecognizedC, .arith1UnrecognizedD, .arith1UnrecognizedE, .arith1UnrecognizedF]

/-- The left operand of a binary jump: the word at `SP + 4`, 0 where that is out of bounds (R173). -/
def leftOperand (s : State) : Word := if s.sp.toNat + 8 ≤ Config.N then s.mem.readWord (s.sp.toNat + 4) else 0

/-- A binary jump with condition code `cond3` and condition `C` (R173): the offset is `4 * sext_23(w[24:2])`, `w[1:0]`
is ignored; an empty stack halts; where `C` holds of the peeked words the target `PC0 + off` is taken, and else nothing
changes. -/
def JumpsOnTwo (cond3 : BitVec 3) (i : Int → Instr) (C : Word → Word → Prop) : Prop :=
  ∀ (f : BitVec 23) (s : State),
    (∀ g : BitVec 2, decodeWord (0x8#4 ++ cond3 ++ f ++ g) = i (4 * f.toInt)) ∧
    (s.sp.toNat + 4 > Config.N →
      Completes (i (4 * f.toInt)) s fun t => Halts s t (.memFault .stackUnderflow s.sp.toNat)) ∧
    (s.sp.toNat + 4 ≤ Config.N → C (leftOperand s) (s.mem.readWord s.sp.toNat) →
      Completes (i (4 * f.toInt)) s fun t => RedirectsTo s t (s.pc0 + 4 * f.toInt)) ∧
    (s.sp.toNat + 4 ≤ Config.N → ¬ C (leftOperand s) (s.mem.readWord s.sp.toNat) →
      Completes (i (4 * f.toInt)) s fun t => t.pc = s.pc ∧ OnlyPcMoves s t)

/-- A unary jump with condition code `sel2` and condition `C` (R181): the offset is `4 * sext_24(w[25:2])`, `w[1:0]` is
ignored. -/
def JumpsOnOne (sel2 : BitVec 2) (i : Int → Instr) (C : Word → Prop) : Prop :=
  ∀ (f : BitVec 24) (s : State),
    (∀ g : BitVec 2, decodeWord (0x9#4 ++ sel2 ++ f ++ g) = i (4 * f.toInt)) ∧
    (s.sp.toNat + 4 > Config.N →
      Completes (i (4 * f.toInt)) s fun t => Halts s t (.memFault .stackUnderflow s.sp.toNat)) ∧
    (s.sp.toNat + 4 ≤ Config.N → C (s.mem.readWord s.sp.toNat) →
      Completes (i (4 * f.toInt)) s fun t => RedirectsTo s t (s.pc0 + 4 * f.toInt)) ∧
    (s.sp.toNat + 4 ≤ Config.N → ¬ C (s.mem.readWord s.sp.toNat) →
      Completes (i (4 * f.toInt)) s fun t => t.pc = s.pc ∧ OnlyPcMoves s t)

/-- The bits `(hi, lo)` of an instruction's word that carry no field (R72, and the rows of spec/opcode_table.json for the
reserved sub-opcodes and the undefined conditions). -/
def ignoredField : Instr → Option (Nat × Nat)
  | .exit _ => some (23, 8)
  | .swap _ _ | .stinput _ | .debug _ | .pop _ | .ret _ | .push _ => none
  | .prints _ | .call _ | .goto _ | .dup _ => some (1, 0)
  | .jeq _ | .jne _ | .jlt _ | .jgt _ | .jle _ | .jge _ => some (1, 0)
  | .jz _ | .jnz _ | .jneg _ | .jnneg _ => some (1, 0)
  | .printDec _ | .printHex _ | .printBin _ | .printOct _ => some (1, 0)
  | .jbUndefined6 | .jbUndefined7 => some (24, 0)
  | .nopA | .nopC | .dump => some (27, 0)
  | _ => some (23, 0)

/-- The events of a string of bytes as PRINTS emits them: up to the first 0x00, without the 0x01s (R190). -/
def charsOf (bs : List Byte) : List Event :=
  ((bs.takeWhile fun b => b != 0x00).filter fun b => b != 0x01).map .char

/-- The bytes of the whole words of memory from address `a` up. -/
def wholeWordBytesFrom (m : Memory) (a : Nat) : List Byte :=
  (List.range (4 * ((Config.N - a) / 4))).map fun k => m.read (a + k)

/-- `ceil(n / 3)`, the number of chunks of a string of `n` bytes, written out from R114 and not with the machine's own
count. -/
def ceilThird (n : Nat) : Nat := (n + 2) / 3

/-- The byte chunk `i` of the string holds at place `c`: its character, or the pad 0x01 (R114). -/
def chunkByte (str : List Byte) (i c : Nat) : Byte := str.getD (3 * i + c) 0x01

end Sys2Proof.Claims

open Sys2Proof Sys2Proof.Machine Sys2Proof.Claims

/-! ## Encoding -/

/-- R62, R64 to R70, R84: decoding an encoded well-formed instruction gives it back, every operand at every value its
encoding admits, and leaves the bytes after it. -/
def Obligations.DecodeEncodeRoundTrip : Prop :=
  ∀ (i : Instr) (rest : List Byte), i.wf = true → decode (encode i ++ rest) = .ok (i, rest)

/-- R62, R72, R84, R116, R180: decoding then encoding a word gives back the word exactly when its ignored bits are zero,
and two words that differ only in ignored bits are the same instruction. R72's list names the ignored bits of the defined
instructions; that `w[24:0]` of an undefined condition and `w[23:0]` of a reserved or unrecognized sub-opcode are ignored
too, since no rule reads them, is the model's reading (notes/assumptions/12.md). -/
def Obligations.IgnoredBitsAreTheOnlyOnesLost : Prop :=
  ∀ w : Word, match ignoredField (decodeWord w) with
    | none => encodeWord (decodeWord w) = w
    | some (hi, lo) =>
      (encodeWord (decodeWord w) = w ↔ bits w hi lo = 0) ∧
      ∀ w' : Word, w'.toNat / 2 ^ (hi + 1) = w.toNat / 2 ^ (hi + 1) → w'.toNat % 2 ^ lo = w.toNat % 2 ^ lo →
        decodeWord w' = decodeWord w

/-- R73, R79: every 32-bit word belongs to exactly one row of the opcode table, and the decoder reads that row's instruction
from it. -/
def Obligations.EveryWordDecodesToItsOneRow : Prop :=
  ∀ w : Word, ∃ r ∈ opcodeTable, r.holds w = true ∧ (decodeWord w).mnemonic = r.mnemonic ∧
    ∀ r' ∈ opcodeTable, r'.holds w = true → r' = r

/-- R64 to R70: what the decoder reads is well formed: offsets are multiples of 4 in their field's range, counts fit. -/
def Obligations.DecodedInstructionsAreWellFormed : Prop := ∀ w : Word, (decodeWord w).wf = true

/-- R111 to R196: words of the spec's examples decode to their instructions. -/
def Obligations.ExampleWordsDecode : Prop :=
  decodeWord 0x000000FE = .exit (-2) ∧ decodeWord 0x01000001 = .swap 0 4 ∧ decodeWord 0x20ABCDEF = .add ∧
  decodeWord 0x60000008 = .ret 8 ∧ decodeWord 0x7FFFFFF8 = .goto (-8) ∧ decodeWord 0x85FFFFF0 = .jlt (-16) ∧
  decodeWord 0x97FFFFF0 = .jnz (-16) ∧ decodeWord 0xBFFFF004 = .dup (-4092) ∧ decodeWord 0xD4000004 = .printHex 4 ∧
  decodeWord 0xF000007B = .push 0x7B

/-- R67: SWAP's offsets are `4 * sext_12(w[23:12])` and `4 * sext_12(w[11:0])`, each in `-8192 .. 8188`; the source's
"shifting left 4 then right 2" of the field in a signed 16-bit value computes the same. -/
def Obligations.SwapOffsetIsTheShiftTrick : Prop :=
  ∀ f g : BitVec 12,
    decodeWord (0x01#8 ++ f ++ g) = .swap (4 * sext 12 f.toNat) (4 * sext 12 g.toNat) ∧
    (((f.setWidth 16) <<< 4).sshiftRight 2).toInt = 4 * sext 12 f.toNat ∧
    -8192 ≤ 4 * sext 12 f.toNat ∧ 4 * sext 12 f.toNat ≤ 8188

/-! ## Memory, reset, load, step -/

/-- R41: after a word is written, its four bytes in storage order are `v[7:0]` up to `v[31:24]`, every other byte is
unchanged, and reading the word gives it back. It holds at every address, aligned or not (R45). -/
def Obligations.WordWriteIsLittleEndianAndLocal : Prop :=
  ∀ (m : Memory) (a : Nat) (v : Word),
    (m.writeWord a v).readWord a = v ∧
    (∀ k, k < 4 → ((m.writeWord a v).read (a + k)) = v.extractLsb' (8 * k) 8) ∧
    (∀ x, x < a ∨ a + 4 ≤ x → (m.writeWord a v).read x = m.read x)

/-- R29, R220: the state after reset. -/
def Obligations.ResetStateIsAsStated : Prop :=
  State.reset.pc.toNat = 0 ∧ State.reset.sp.toNat = 4096 ∧ State.reset.status = .running ∧ State.reset.trace = [] ∧
    ∀ a, State.reset.mem.read a = 0x00

/-- R220 to R223: the loader refuses a wrong marker of four bytes, then a body longer than `N`, and else gives the reset
state whose memory is the body from offset 0 with zeros above it. That memory is in canonical form (`t.mem.wf`) is the
model's choice of how memory is held (notes/assumptions/6.md), no rule of the spec. -/
def Obligations.LoaderBuildsTheImage : Prop :=
  ∀ file : List Byte,
    (4 ≤ file.length → file.take 4 ≠ [0xDE, 0xAD, 0xBE, 0xEF] → Loader.load file = .error .invalidFormat) ∧
    (∀ body, file = [0xDE, 0xAD, 0xBE, 0xEF] ++ body → Config.N < body.length →
      Loader.load file = .error .programTooLarge) ∧
    (∀ body, file = [0xDE, 0xAD, 0xBE, 0xEF] ++ body → body.length ≤ Config.N →
      ∃ t, Loader.load file = .ok t ∧ t.pc.toNat = 0 ∧ t.sp.toNat = Config.N ∧ t.status = .running ∧ t.trace = [] ∧
        t.mem.wf ∧ ∀ a, t.mem.read a = body.getD a 0x00)

/-- R90, R92, R93: a step of a running state with a whole word at PC runs the decoded instruction in the state whose PC is
advanced by 4. -/
def Obligations.StepRunsTheDecodedInstruction : Prop :=
  ∀ (s : State) (i : Instr), s.status = .running → s.pc.toNat + 4 ≤ Config.N →
    decode [s.mem.read s.pc.toNat, s.mem.read (s.pc.toNat + 1), s.mem.read (s.pc.toNat + 2), s.mem.read (s.pc.toNat + 3)]
      = .ok (i, []) →
    i.wf = true → step s = exec i (s.setPc (s.pc + 4))

/-- R91: the pre-check halts with FetchBound, PC not advanced, nothing else changed. -/
def Obligations.FetchPastMemoryHalts : Prop :=
  ∀ s : State, s.status = .running → s.pc.toNat + 4 > Config.N →
    ∃ t, step s = .next t ∧ Halts s t (.fetchBound s.pc)

/-- R90, R212: from Exited and Halted no step is defined; the model's fault for it is its own choice
(notes/assumptions/2.md). -/
def Obligations.TerminalStatesTakeNoStep : Prop :=
  ∀ s : State, s.status ≠ .running → step s = .fault .notRunning

/-- R51: the next fetch of an address sees the word stored there last, aligned or not. -/
def Obligations.FetchSeesTheLatestStore : Prop :=
  ∀ (s : State) (a : Nat) (v : Word), s.status = .running → a + 4 ≤ Config.N → s.pc.toNat = a →
    step (s.setMem (s.mem.writeWord a v)) =
      exec (decodeWord v) ((s.setMem (s.mem.writeWord a v)).setPc (BitVec.ofNat 32 (a + 4)))

/-! ## The stack primitives and the redirect -/

/-- R96: Push faults where SP is below 4 and else lowers SP by 4 and writes the word there. -/
def Obligations.PushPrimitive : Prop :=
  ∀ (s : State) (v : Word),
    (s.sp.toNat < 4 → Halts s (s.push v) (.memFault .stackOverflow ((s.sp.toNat : Int) - 4))) ∧
    (4 ≤ s.sp.toNat → Pushes s (s.push v) v [] s.host)

/-- R97, S2: pushing a word then popping it yields the word and restores SP. -/
def Obligations.PopUndoesPush : Prop :=
  ∀ (s : State) (v : Word), 4 ≤ s.sp.toNat → (s.push v).popWord.1 = v ∧ (s.push v).popWord.2.sp = s.sp

/-- R100: Redirect takes a target in `[0, N)` and else halts with the diagnostic, PC kept. -/
def Obligations.RedirectPrimitive : Prop := ∀ (s : State) (t : Int), RedirectsTo s (s.redirect t) t

/-! ## Family 0x0 -/

/-- R111: EXIT sets STATUS to `Exited(sext_8(w[7:0]))`, whatever `w[23:8]`, and changes nothing else. -/
def Obligations.ExitEndsTheRun : Prop :=
  ∀ (junk : BitVec 16) (imm8 : BitVec 8) (s : State),
    decodeWord (0x00#8 ++ junk ++ imm8) = .exit imm8.toInt ∧
    Completes (.exit imm8.toInt) s fun t =>
      t.status = .exited imm8.toInt ∧ t.pc = s.pc ∧ t.sp = s.sp ∧ MemSame s t ∧ t.trace = s.trace ∧ t.host = s.host

/-- R112: SWAP exchanges the words at `SP + 4 * sext_12(w[23:12])` and `SP + 4 * sext_12(w[11:0])` where both lie in
bounds, and else does nothing. -/
def Obligations.SwapExchangesTwoWords : Prop :=
  ∀ (fA fB : BitVec 12) (s : State),
    decodeWord (0x01#8 ++ fA ++ fB) = .swap (4 * fA.toInt) (4 * fB.toInt) ∧
    (∀ a b : Nat, (a : Int) = s.sp.toNat + 4 * fA.toInt → (b : Int) = s.sp.toNat + 4 * fB.toInt →
      a + 4 ≤ Config.N → b + 4 ≤ Config.N →
      Completes (.swap (4 * fA.toInt) (4 * fB.toInt)) s fun t =>
        t.mem.readWord a = s.mem.readWord b ∧ t.mem.readWord b = s.mem.readWord a ∧
        (∀ x, x < a ∨ a + 4 ≤ x → x < b ∨ b + 4 ≤ x → t.mem.read x = s.mem.read x) ∧
        t.pc = s.pc ∧ t.sp = s.sp ∧ t.status = s.status ∧ t.trace = s.trace ∧ t.host = s.host) ∧
    (¬ inBounds (s.sp.toNat + 4 * fA.toInt) ∨ ¬ inBounds (s.sp.toNat + 4 * fB.toInt) →
      Completes (.swap (4 * fA.toInt) (4 * fB.toInt)) s fun t => t.pc = s.pc ∧ OnlyPcMoves s t)

/-- R113: once the host has answered `v` (the model's IN port, notes/assumptions/3.md and 4.md), INPUT emits the prompt,
consumes the word and pushes it; where SP is below 4 the events stay and the push faults. -/
def Obligations.InputPushesTheHostsWord : Prop :=
  ∀ (s : State) (v : Word) (h : HostPort), s.host.nextWord = some (v, h) →
    (∀ junk : BitVec 24, decodeWord (0x04#8 ++ junk) = .input) ∧
    (4 ≤ s.sp.toNat → Completes .input s fun t => Pushes s t v [.prompt, .inWord v] h) ∧
    (s.sp.toNat < 4 → Completes .input s fun t =>
      HaltsWith s t (.memFault .stackOverflow ((s.sp.toNat : Int) - 4)) [.prompt, .inWord v] h)

/-- R114: once the host has answered `line` (the model's IN port, notes/assumptions/3.md and 4.md), STINPUT packs its
first `max` bytes three to a word with a flag byte, chunk 0 at the new SP: pads are 0x01, the flag is 0x00 on the last
chunk and 0x01 on the others; no other byte changes. -/
def Obligations.StinputPacksTheHostsLine : Prop :=
  ∀ (max : Nat) (s : State) (line : List Byte) (h : HostPort), s.host.nextLine = some (line, h) →
    4 * ceilThird (line.take max).length ≤ s.sp.toNat →
    (∀ m : BitVec 24, decodeWord (0x05#8 ++ m) = .stinput m.toNat) ∧
    Completes (.stinput max) s fun t =>
      t.pc = s.pc ∧ t.status = s.status ∧ t.trace = s.trace ++ [.inLine line] ∧ t.host = h ∧
      t.sp.toNat + 4 * ceilThird (line.take max).length = s.sp.toNat ∧
      (∀ i, i < ceilThird (line.take max).length →
        (∀ c, c < 3 → t.mem.read (t.sp.toNat + 4 * i + c) = chunkByte (line.take max) i c) ∧
        t.mem.read (t.sp.toNat + 4 * i + 3) = if i + 1 = ceilThird (line.take max).length then 0x00 else 0x01) ∧
      MemSameOutside s t t.sp.toNat (s.sp.toNat - t.sp.toNat)

/-- R114, for an answered line (notes/assumptions/3.md): where there is no room for every chunk STINPUT pushes nothing
and faults; the line is consumed. -/
def Obligations.StinputWithoutRoomPushesNothing : Prop :=
  ∀ (max : Nat) (s : State) (line : List Byte) (h : HostPort), s.host.nextLine = some (line, h) →
    s.sp.toNat < 4 * ceilThird (line.take max).length →
    Completes (.stinput max) s fun t =>
      HaltsWith s t
        (.memFault .stackOverflow ((s.sp.toNat : Int) - 4 * ceilThird (line.take max).length)) [.inLine line] h

/-- R114, R190, for an answered line (notes/assumptions/3.md): `PRINTS 0` after STINPUT prints the packed string back,
where no byte of it is 0x00 or 0x01. -/
def Obligations.PrintsReadsBackWhatStinputPacked : Prop :=
  ∀ (max : Nat) (s : State) (line : List Byte) (h : HostPort), s.host.nextLine = some (line, h) →
    s.sp.toNat ≤ Config.N → 4 * ceilThird (line.take max).length ≤ s.sp.toNat → line.take max ≠ [] →
    (∀ b ∈ line.take max, 2 ≤ b.toNat) →
    Completes (.stinput max) s fun t => Completes (.prints 0) t fun u =>
      u.trace = s.trace ++ .inLine line :: (line.take max).map .char

/-- R230 (the fault is the model's name for a step that never completes, notes/assumptions/4.md): INPUT and STINPUT take
no step where the host never answers, and only there. -/
def Obligations.InputBlocksExactlyWithoutAnswer : Prop :=
  ∀ (max : Nat) (s : State),
    (exec .input s = .fault .hostSilent ↔ s.host.nextWord = none) ∧
    (exec (.stinput max) s = .fault .hostSilent ↔ s.host.nextLine = none)

/-- The model's choice for the IN port (notes/assumptions/3.md, 4.md): an answer the host has settled is the next one
used, for every word and every line, and a host that answers is never waited for. -/
def Obligations.SettledAnswersAreUsedFirst : Prop :=
  (∀ (h : HostPort) (v : Word) (rest : List Word), h.words = v :: rest →
    h.nextWord = some (v, { h with words := rest })) ∧
  (∀ (h : HostPort) (l : List Byte) (rest : List (List Byte)), h.lines = l :: rest →
    h.nextLine = some (l, { h with lines := rest })) ∧
  (∀ h : HostPort, h.answers = true → h.nextWord ≠ none ∧ h.nextLine ≠ none) ∧
  (∀ h : HostPort, h.answers = false → h.words = [] → h.nextWord = none) ∧
  (∀ h : HostPort, h.answers = false → h.lines = [] → h.nextLine = none)

/-- R115: DEBUG emits `w[23:0]`, `PC1` and SP on DIAG and changes nothing else. -/
def Obligations.DebugOnlyReports : Prop :=
  ∀ (imm24 : BitVec 24) (s : State),
    decodeWord (0x0F#8 ++ imm24) = .debug imm24.toNat ∧
    (Event.debug imm24.toNat s.pc s.sp).port = .diag ∧
    Completes (.debug imm24.toNat) s fun t => OnlyEmits s t [.debug imm24.toNat s.pc s.sp] s.host

/-- R116: a reserved sub-opcode of family 0x0, whatever its low 24 bits, halts with IllegalMisc(sub) and changes nothing else
(the constructors miscReserved2, 3, 6, 7, 8, 9, A, B, C, D, E); so does STINPUT where HAS_STINPUT is false. -/
def Obligations.ReservedMiscHalts : Prop :=
  (∀ sub : BitVec 4, sub ∈ [0x2#4, 0x3#4, 0x6#4, 0x7#4, 0x8#4, 0x9#4, 0xA#4, 0xB#4, 0xC#4, 0xD#4, 0xE#4] →
    ∀ (low : BitVec 24) (s : State),
      Completes (decodeWord (0x0#4 ++ sub ++ low)) s fun t => Halts s t (.illegalMisc sub)) ∧
  ∀ (max : Nat) (s : State), ∃ t, stinputWith false max s = .next t ∧ Halts s t (.illegalMisc 0x5)

/-! ## POP, DUP, PUSH -/

/-- R130: POP adds its byte count to SP, 0 meaning 4, clamped to `N`; nothing else changes and it never faults. -/
def Obligations.PopMovesSpClamped : Prop :=
  ∀ (n : BitVec 28) (s : State),
    decodeWord (0x1#4 ++ n) = .pop n.toNat ∧
    Completes (.pop n.toNat) s fun t =>
      t.sp.toNat = min (s.sp.toNat + if n = 0 then 4 else n.toNat) Config.N ∧
      t.pc = s.pc ∧ MemSame s t ∧ t.status = s.status ∧ t.trace = s.trace ∧ t.host = s.host

/-- R131: DUP pushes the word at `SP + 4 * sext_26(w[27:2])`, SP that of before the push; an address out of bounds faults
first, a full stack after it; with HAS_DUP false it is a no-op. -/
def Obligations.DupPushesTheAddressedWord : Prop :=
  ∀ (f : BitVec 26) (s : State),
    (∀ g : BitVec 2, decodeWord (0xB#4 ++ f ++ g) = .dup (4 * f.toInt)) ∧
    (∀ a : Nat, (a : Int) = s.sp.toNat + 4 * f.toInt → a + 4 ≤ Config.N → 4 ≤ s.sp.toNat →
      Completes (.dup (4 * f.toInt)) s fun t => Pushes s t (s.mem.readWord a) [] s.host) ∧
    (∀ a : Nat, (a : Int) = s.sp.toNat + 4 * f.toInt → a + 4 ≤ Config.N → s.sp.toNat < 4 →
      Completes (.dup (4 * f.toInt)) s fun t => Halts s t (.memFault .stackOverflow ((s.sp.toNat : Int) - 4))) ∧
    (¬ inBounds (s.sp.toNat + 4 * f.toInt) →
      Completes (.dup (4 * f.toInt)) s fun t => Halts s t (.memFault .badAddress (s.sp.toNat + 4 * f.toInt))) ∧
    s.dupWith false (4 * f.toInt) = s

/-- R132: PUSH pushes its 28-bit pattern zero-extended; under PUSH_SEXT the pattern would be sign-extended from bit 27. -/
def Obligations.PushPushesItsPattern : Prop :=
  ∀ (imm28 : BitVec 28) (s : State),
    decodeWord (0xF#4 ++ imm28) = .push imm28.toNat ∧
    (4 ≤ s.sp.toNat → Completes (.push imm28.toNat) s fun t => Pushes s t (0x0#4 ++ imm28) [] s.host) ∧
    (s.sp.toNat < 4 → Completes (.push imm28.toNat) s fun t =>
      Halts s t (.memFault .stackOverflow ((s.sp.toNat : Int) - 4))) ∧
    widenImm28 true imm28.toNat = imm28.signExtend 32

/-! ## Arithmetic -/

/-- R140: each of the eleven binary instructions, whatever `w[23:0]`, leaves one result over its left operand with SP 4
higher and nothing else changed; it tests for the right operand, then for the left, and faults without popping anything.
-/
def Obligations.BinaryInstructionsTakeTwoWords : Prop :=
  ∀ p ∈ binaryInstrs,
    (∀ junk : BitVec 24, decodeWord (0x2#4 ++ BitVec.ofNat 4 p.2 ++ junk) = p.1) ∧
    (∃ f, ComputesBinary p.1 f) ∧
    ∀ s : State,
      (s.sp.toNat + 4 > Config.N → Completes p.1 s fun t => Halts s t (.memFault .stackUnderflow s.sp.toNat)) ∧
      (s.sp.toNat + 4 ≤ Config.N → s.sp.toNat + 8 > Config.N →
        Completes p.1 s fun t => Halts s t (.memFault .stackUnderflow (s.sp.toNat + 4)))

/-- R141, R142, R143: ADD, SUB and MUL are the ring operations modulo `2^32`, left operand first. -/
def Obligations.AddSubMulWrap : Prop :=
  decodeWord 0x20000000 = .add ∧ decodeWord 0x21000000 = .sub ∧ decodeWord 0x22000000 = .mul ∧
  ∃ add sub mul : Word → Word → Word,
    ComputesBinary .add add ∧ ComputesBinary .sub sub ∧ ComputesBinary .mul mul ∧
    ∀ l r : Word, ((add l r).toNat : Int) = ((l.toNat : Int) + r.toNat) % 2 ^ 32 ∧
      ((sub l r).toNat : Int) = ((l.toNat : Int) - r.toNat) % 2 ^ 32 ∧
      ((mul l r).toNat : Int) = ((l.toNat : Int) * r.toNat) % 2 ^ 32

/-- R144: DIV gives 0 for a zero divisor; signed, the quotient rounded toward zero, with `-2^31 / -1 = -2^31`; with
DIVMOD_SIGNED false, the unsigned quotient. -/
def Obligations.DivTruncatesAndNeverFaults : Prop :=
  decodeWord 0x23000000 = .div ∧ ComputesBinary .div (divWord true) ∧
  ∀ l r : Word,
    (r = 0 → divWord true l r = 0 ∧ divWord false l r = 0) ∧
    (r ≠ 0 → ¬ (l.toInt = -2 ^ 31 ∧ r.toInt = -1) → (divWord true l r).toInt = l.toInt.tdiv r.toInt) ∧
    (l.toInt = -2 ^ 31 → r.toInt = -1 → (divWord true l r).toInt = -2 ^ 31) ∧
    (r ≠ 0 → (divWord false l r).toNat = l.toNat / r.toNat)

/-- R145: MOD gives 0 for a zero divisor; signed, the remainder of the truncated quotient, which takes the sign of the
dividend; with DIVMOD_SIGNED false, the unsigned remainder; and `l = r * (l DIV r) + (l MOD r)` modulo `2^32` for a
nonzero divisor. -/
def Obligations.ModTakesTheDividendsSign : Prop :=
  decodeWord 0x24000000 = .mod ∧ ComputesBinary .mod (modWord true) ∧
  ∀ l r : Word,
    (r = 0 → modWord true l r = 0 ∧ modWord false l r = 0) ∧
    (r ≠ 0 → (modWord true l r).toInt = l.toInt.tmod r.toInt) ∧
    (0 ≤ l.toInt → 0 ≤ (modWord true l r).toInt) ∧ (l.toInt < 0 → (modWord true l r).toInt ≤ 0) ∧
    (r ≠ 0 → (modWord false l r).toNat = l.toNat % r.toNat) ∧
    (∀ signed, r ≠ 0 → l = r * divWord signed l r + modWord signed l r)

/-- R146, R147, R148: AND, OR and XOR work on each bit by itself. -/
def Obligations.AndOrXorAreBitwise : Prop :=
  decodeWord 0x25000000 = .and ∧ decodeWord 0x26000000 = .or ∧ decodeWord 0x27000000 = .xor ∧
  ∃ and or xor : Word → Word → Word,
    ComputesBinary .and and ∧ ComputesBinary .or or ∧ ComputesBinary .xor xor ∧
    ∀ (l r : Word) (i : Nat), i < 32 →
      (and l r).getLsbD i = (l.getLsbD i && r.getLsbD i) ∧
      (or l r).getLsbD i = (l.getLsbD i || r.getLsbD i) ∧
      (xor l r).getLsbD i = Bool.xor (l.getLsbD i) (r.getLsbD i)

/-- R149, R150, R151: the shifts take the amount modulo 32; unmasked, amounts of 32 and more give 0, or the sign fill
for SAR. -/
def Obligations.ShiftsMaskTheirAmount : Prop :=
  decodeWord 0x28000000 = .shl ∧ decodeWord 0x29000000 = .shr ∧ decodeWord 0x2A000000 = .sar ∧
  ComputesBinary .shl (shlWord true) ∧ ComputesBinary .shr (shrWord true) ∧ ComputesBinary .sar (sarWord true) ∧
  ∀ l r : Word,
    shlWord true l r = l <<< (r.toNat % 32) ∧ shrWord true l r = l >>> (r.toNat % 32) ∧
    sarWord true l r = l.sshiftRight (r.toNat % 32) ∧
    shlWord false l r = l <<< r.toNat ∧ shrWord false l r = l >>> r.toNat ∧ sarWord false l r = l.sshiftRight r.toNat

/-- R152, R156: an unrecognized arithmetic sub-opcode, whatever its low 24 bits, is a no-op that does not look at the stack
(the constructors arith2UnrecognizedB to F and arith1Unrecognized2 to F). -/
def Obligations.UnrecognizedArithmeticDoesNothing : Prop :=
  ∀ (op sub : BitVec 4) (low : BitVec 24) (s : State),
    op = 0x2#4 ∧ 0xB ≤ sub.toNat ∨ op = 0x3#4 ∧ 0x2 ≤ sub.toNat → exec (decodeWord (op ++ sub ++ low)) s = .next s

/-- R153, R154: NEG replaces the top word by its negation modulo `2^32`; an empty stack faults. -/
def Obligations.NegNegatesTheTop : Prop :=
  (∀ junk : BitVec 24, decodeWord (0x30#8 ++ junk) = .neg) ∧
  (∃ g : Word → Word, ComputesUnary .neg g ∧ ∀ x : Word, ((g x).toNat : Int) = (-x.toInt) % 2 ^ 32) ∧
  ∀ s : State, s.sp.toNat + 4 > Config.N →
    Completes .neg s fun t => Halts s t (.memFault .stackUnderflow s.sp.toNat)

/-- R153, R155: NOT replaces the top word by its bitwise complement; an empty stack faults. -/
def Obligations.NotComplementsTheTop : Prop :=
  (∀ junk : BitVec 24, decodeWord (0x31#8 ++ junk) = .not) ∧
  (∃ g : Word → Word, ComputesUnary .not g ∧
    ∀ (x : Word), (∀ i, i < 32 → (g x).getLsbD i = !x.getLsbD i) ∧ (g x).toNat = 2 ^ 32 - 1 - x.toNat) ∧
  ∀ s : State, s.sp.toNat + 4 > Config.N →
    Completes .not s fun t => Halts s t (.memFault .stackUnderflow s.sp.toNat)

/-! ## Control transfer -/

/-- R170: CALL pushes `PC1` and then redirects to `PC0 + 4 * sext_26(w[27:2])`; a full stack faults with nothing
changed; a bad target faults with the push kept. -/
def Obligations.CallPushesThenRedirects : Prop :=
  ∀ (f : BitVec 26) (s : State),
    (∀ g : BitVec 2, decodeWord (0x5#4 ++ f ++ g) = .call (4 * f.toInt)) ∧
    (4 ≤ s.sp.toNat → Completes (.call (4 * f.toInt)) s fun t =>
      ∃ u, Pushes s u s.pc [] s.host ∧ RedirectsTo u t (s.pc0 + 4 * f.toInt)) ∧
    (s.sp.toNat < 4 → Completes (.call (4 * f.toInt)) s fun t =>
      Halts s t (.memFault .stackOverflow ((s.sp.toNat : Int) - 4)))

/-- R171: RET drops `w[27:0]` bytes and pops PC; no word left to pop faults, then a popped address that is no target
faults, each with SP unchanged; with HAS_RET false it is a no-op. -/
def Obligations.RetPopsThePc : Prop :=
  ∀ (n : BitVec 28) (s : State) (a : Nat), a = s.sp.toNat + n.toNat →
    decodeWord (0x6#4 ++ n) = .ret n.toNat ∧
    (a + 4 > Config.N → Completes (.ret n.toNat) s fun t => Halts s t (.memFault .stackUnderflow a)) ∧
    (a + 4 ≤ Config.N → Config.N ≤ (s.mem.readWord a).toNat →
      Completes (.ret n.toNat) s fun t =>
        HaltsWith s t (.jumpFault (s.mem.readWord a).toNat) [.jumpFaultDiag (s.mem.readWord a).toNat] s.host) ∧
    (a + 4 ≤ Config.N → (s.mem.readWord a).toNat < Config.N →
      Completes (.ret n.toNat) s fun t =>
        t.sp.toNat = a + 4 ∧ t.pc = s.mem.readWord a ∧
        MemSame s t ∧ t.status = s.status ∧ t.trace = s.trace ∧ t.host = s.host) ∧
    s.retWith false n.toNat = s

/-- R186, S8: a RET 0 at the stack level a CALL left restores PC to the instruction after the call site, and SP. -/
def Obligations.RetReturnsAfterTheCall : Prop :=
  ∀ (off : Int) (s : State), 4 ≤ s.sp.toNat → s.sp.toNat ≤ Config.N → s.pc.toNat < Config.N →
    0 ≤ s.pc0 + off → s.pc0 + off < Config.N →
    Completes (.call off) s fun t => (t.pc.toNat : Int) = s.pc0 + off ∧
      ∀ v : Word, Completes (.ret 0) (t.setPc v) fun u => u.pc = s.pc ∧ u.sp = s.sp ∧ u.status = s.status

/-- R172: GOTO redirects to `PC0 + 4 * sext_26(w[27:2])`. -/
def Obligations.GotoRedirects : Prop :=
  ∀ (f : BitVec 26) (s : State),
    (∀ g : BitVec 2, decodeWord (0x7#4 ++ f ++ g) = .goto (4 * f.toInt)) ∧
    Completes (.goto (4 * f.toInt)) s fun t => RedirectsTo s t (s.pc0 + 4 * f.toInt)

/-- R173 to R175: JEQ and JNE compare all 32 bits of the two peeked words; an untaken jump never checks its target. -/
def Obligations.EqualityJumps : Prop :=
  JumpsOnTwo 0 .jeq (fun l r => l = r) ∧ JumpsOnTwo 1 .jne (fun l r => l ≠ r)

/-- R173, R176 to R179: the order jumps compare the signed views, left operand first; with CMP_SIGNED false, the unsigned. -/
def Obligations.OrderJumpsAreSigned : Prop :=
  JumpsOnTwo 2 .jlt (fun l r => l.toInt < r.toInt) ∧ JumpsOnTwo 3 .jgt (fun l r => l.toInt > r.toInt) ∧
  JumpsOnTwo 4 .jle (fun l r => l.toInt ≤ r.toInt) ∧ JumpsOnTwo 5 .jge (fun l r => l.toInt ≥ r.toInt) ∧
  ∀ l r : Word, (condLt false l r = true ↔ l.toNat < r.toNat) ∧ (condGt false l r = true ↔ l.toNat > r.toNat) ∧
    (condLe false l r = true ↔ l.toNat ≤ r.toNat) ∧ (condGe false l r = true ↔ l.toNat ≥ r.toNat)

/-- R180: a word of an undefined condition, whatever its offset bits, still faults on an empty stack and else does nothing
(the constructors jbUndefined6 and jbUndefined7). -/
def Obligations.UndefinedConditionsNeverJump : Prop :=
  ∀ (cond : BitVec 3) (low : BitVec 25) (s : State), 6 ≤ cond.toNat →
    (s.sp.toNat + 4 > Config.N → Completes (decodeWord (0x8#4 ++ cond ++ low)) s fun t =>
      Halts s t (.memFault .stackUnderflow s.sp.toNat)) ∧
    (s.sp.toNat + 4 ≤ Config.N → exec (decodeWord (0x8#4 ++ cond ++ low)) s = .next s)

/-- R181 to R185: JZ, JNZ, JNEG and JNNEG test the peeked top word; the last two test bit 31. -/
def Obligations.UnaryJumps : Prop :=
  JumpsOnOne 0 .jz (fun x => x.toNat = 0) ∧ JumpsOnOne 1 .jnz (fun x => x.toNat ≠ 0) ∧
  JumpsOnOne 2 .jneg (fun x => x.getLsbD 31 = true) ∧ JumpsOnOne 3 .jnneg (fun x => x.getLsbD 31 = false)

/-- R94: a word of an unassigned opcode, whatever its low 28 bits, is a no-op (the constructors nopA and nopC); so are
RET where HAS_RET is false and DUP where HAS_DUP is false. -/
def Obligations.UnassignedOpcodesDoNothing : Prop :=
  ∀ (op : BitVec 4) (low : BitVec 28) (s : State),
    (op = 0xA#4 ∨ op = 0xC#4 → exec (decodeWord (op ++ low)) s = .next s) ∧
    (∀ count, s.retWith false count = s) ∧ ∀ off, s.dupWith false off = s

/-! ## Output -/

/-- R190: PRINTS emits, from `SP + 4 * sext_26(w[27:2])` up to the last whole word, the bytes before the first 0x00 but
for the 0x01s; only a negative start address faults. -/
def Obligations.PrintsEmitsTheString : Prop :=
  ∀ (f : BitVec 26) (s : State),
    (∀ g : BitVec 2, decodeWord (0x4#4 ++ f ++ g) = .prints (4 * f.toInt)) ∧
    (∀ a : Nat, (a : Int) = s.sp.toNat + 4 * f.toInt →
      Completes (.prints (4 * f.toInt)) s fun t => OnlyEmits s t (charsOf (wholeWordBytesFrom s.mem a)) s.host) ∧
    (s.sp.toNat + 4 * f.toInt < 0 →
      Completes (.prints (4 * f.toInt)) s fun t => Halts s t (.memFault .badAddress (s.sp.toNat + 4 * f.toInt)))

/-- R191 to R195: each PRINT.fmt emits the word at `SP + 4 * sext_24(w[25:2])` under its format; an address out of
bounds faults; DEC shows the signed view in base 10, HEX, BIN and OCT the unsigned view in base 16, 2 and 8. -/
def Obligations.PrintNumberEmitsTheWord : Prop :=
  ∀ p ∈ [((0 : BitVec 2), (.printDec : Int → Instr), NumFmt.dec, 10), (1, .printHex, .hex, 16), (2, .printBin, .bin, 2),
      (3, .printOct, .oct, 8)],
    p.2.2.1.radix = p.2.2.2 ∧ (∀ v : Word, p.2.2.1.shown v = if p.2.2.1 = .dec then v.toInt else (v.toNat : Int)) ∧
    ∀ (f : BitVec 24) (s : State),
      (∀ g : BitVec 2, decodeWord (0xD#4 ++ p.1 ++ f ++ g) = p.2.1 (4 * f.toInt)) ∧
      (∀ a : Nat, (a : Int) = s.sp.toNat + 4 * f.toInt → a + 4 ≤ Config.N →
        Completes (p.2.1 (4 * f.toInt)) s fun t => OnlyEmits s t [.num p.2.2.1 (s.mem.readWord a)] s.host) ∧
      (¬ inBounds (s.sp.toNat + 4 * f.toInt) →
        Completes (p.2.1 (4 * f.toInt)) s fun t => Halts s t (.memFault .badAddress (s.sp.toNat + 4 * f.toInt)))

/-- R196: DUMP emits one line for each of the `floor((N - SP) / 4)` whole words from SP up, top of stack first, and
nothing for the empty stack. -/
def Obligations.DumpListsTheStack : Prop :=
  ∀ s : State, (∀ junk : BitVec 28, decodeWord (0xE#4 ++ junk) = .dump) ∧ Completes .dump s fun t =>
    OnlyEmits s t ((List.range ((Config.N - s.sp.toNat) / 4)).map fun k =>
      .dumpLine (s.sp.toNat + 4 * k) (s.mem.readWord (s.sp.toNat + 4 * k))) s.host

/-! ## The whole machine -/

/-- R24, R26, R29, R30: reset is a legal state. Its clause on the canonical form of memory is the model's choice
(notes/assumptions/6.md), and so is that `State.reset` is the reset state of the empty program body
(notes/assumptions/5.md). -/
def Obligations.ResetIsLegal : Prop := State.reset.Inv

/-- R24, R26, R30, R201: every step from a legal state ends in a legal state: PC and SP in `0 .. N`, STATUS and every
event as the spec's tables allow, and memory in canonical form, which is the model's choice (notes/assumptions/6.md), no
rule. -/
def Obligations.StepKeepsTheInvariant : Prop := ∀ s t : State, s.Inv → step s = .next t → t.Inv

/-- R30, S1: in every run of every program that loads, valid or not, PC and SP stay in `0 .. N`, STATUS and every event as
the spec's tables allow (R24, R26, R201), and memory in canonical form, which is the model's choice
(notes/assumptions/6.md). -/
def Obligations.RunsOfEveryProgramStayLegal : Prop :=
  ∀ (file : List Byte) (s t : State), Loader.load file = .ok s → s.Reaches t → t.Inv

/-- R205: a step that halts leaves PC at `PC0` for FetchBound and at `PC0 + 4` for every other cause, and leaves SP and
every byte of memory as they were, unless it is the jump fault of a CALL, which keeps its push. -/
def Obligations.HaltsArePrecise : Prop :=
  ∀ (s t : State) (cause : Cause), s.status = .running → step s = .next t → t.status = .halted cause →
    (cause = .fetchBound s.pc ∧ t.pc = s.pc ∧ t.sp = s.sp ∧ MemSame s t) ∨
    ((∀ pc, cause ≠ .fetchBound pc) ∧ t.pc = s.pc + 4 ∧
      ((t.sp = s.sp ∧ MemSame s t) ∨
        ∃ off, decodeWord s.fetchedWord = .call off ∧ cause = .jumpFault (s.pc.toNat + off) ∧
          t.sp = s.sp - 4 ∧ t.mem.readWord (s.sp.toNat - 4) = s.pc + 4 ∧ MemSameOutside s t (s.sp.toNat - 4) 4))

/-- R207: a run ends well by EXIT alone: a step sets `Exited(code)` exactly when the word it fetches is EXIT with that
code. -/
def Obligations.OnlyExitEndsWell : Prop :=
  ∀ (s t : State) (code : Int), s.status = .running → step s = .next t →
    (t.status = .exited code ↔ s.pc.toNat + 4 ≤ Config.N ∧ decodeWord s.fetchedWord = .exit code)

/-- R208: what never halts, each with the words it needs and no more. The no-ops of opcodes 0xA and 0xC, the unrecognized
arithmetic sub-opcodes, POP, SWAP, DUMP and DEBUG need none, not even a nonempty stack; NEG, NOT and the undefined
conditions need one word, binary arithmetic two: no overflow and no zero divisor halts. PRINTS from any address not below
0 stops at the top of memory. A binary jump with one word on the stack reads 0 for its left operand, so JEQ is then JZ and
JNE is JNZ, and it halts for no reason but its target. -/
def Obligations.LenientInstructionsNeverHalt : Prop :=
  ∀ s : State,
    (∀ i : Instr, i ∈ [.nopA, .nopC, .dump] ∨ i ∈ unrecognizedInstrs ∨ (∃ n, i = .pop n) ∨ (∃ a b, i = .swap a b) ∨
        (∃ k, i = .debug k) → Completes i s fun t => t.status = s.status) ∧
    (s.sp.toNat + 4 ≤ Config.N → ∀ i : Instr, i ∈ [.neg, .not, .jbUndefined6, .jbUndefined7] →
      Completes i s fun t => t.status = s.status) ∧
    (s.sp.toNat + 8 ≤ Config.N → ∀ p ∈ binaryInstrs, Completes p.1 s fun t => t.status = s.status) ∧
    (∀ off : Int, 0 ≤ s.sp.toNat + off → Completes (.prints off) s fun t => t.status = s.status) ∧
    (s.sp.toNat + 4 ≤ Config.N → ∀ off : Int,
      (s.sp.toNat + 8 > Config.N →
        exec (.jeq off) s = exec (.jz off) s ∧ exec (.jne off) s = exec (.jnz off) s) ∧
      (0 ≤ s.pc0 + off → s.pc0 + off < Config.N →
        ∀ i : Instr, i ∈ [.jeq off, .jne off, .jlt off, .jgt off, .jle off, .jge off] →
          Completes i s fun t => t.status = s.status))

/-- R26, R205: no step takes back an event, in the whole sequence or on any of the three ports; each port's trace is the
events of the sequence that R26's table gives that port. That one list holds the events of all ports is the model's choice
(notes/assumptions/7.md). -/
def Obligations.EventsAreNeverTakenBack : Prop :=
  (∀ s t : State, step s = .next t → s.trace <+: t.trace ∧ ∀ p, s.portTrace p <+: t.portTrace p) ∧
  (∀ (s : State) (p : Port), s.portTrace p = s.trace.filter fun e => decide (e.port = p)) ∧
  Event.prompt.port = .out ∧ (∀ b, (Event.char b).port = .out) ∧ (∀ fmt v, (Event.num fmt v).port = .out) ∧
  (∀ a v, (Event.dumpLine a v).port = .out) ∧ (∀ imm24 pc sp, (Event.debug imm24 pc sp).port = .diag) ∧
  (∀ t, (Event.jumpFaultDiag t).port = .diag) ∧ (∀ v, (Event.inWord v).port = .input) ∧
  (∀ line, (Event.inLine line).port = .input)

/-- R31, R232: a step is a function of memory, PC, SP, STATUS and the IN port alone: from two states that differ only in
their traces it ends alike and adds the same events. -/
def Obligations.StepsDoNotReadTheTrace : Prop :=
  ∀ (s t : State) (tr : List Event), step s = .next t →
    ∃ es, t.trace = s.trace ++ es ∧ step { s with trace := tr } = .next { t with trace := tr ++ es }

/-- R20, R187: a PC that is a multiple of 4 stays one under every instruction but RET. -/
def Obligations.PcStaysAlignedUnlessRet : Prop :=
  ∀ s t : State, step s = .next t → s.pc.toNat % 4 = 0 → (∀ n, decodeWord s.fetchedWord ≠ .ret n) → t.pc.toNat % 4 = 0

/-- R21: an SP that is a multiple of 4 stays one under every instruction but POP and RET with a count that is not. -/
def Obligations.SpStaysAlignedUnlessOddCount : Prop :=
  ∀ s t : State, step s = .next t → s.sp.toNat % 4 = 0 →
    (∀ n, decodeWord s.fetchedWord = .pop n ∨ decodeWord s.fetchedWord = .ret n → n % 4 = 0) → t.sp.toNat % 4 = 0
end

