-- ==== Sys2Proof/Laws/Decode.lean ====
section
/-! SUPPORT. The laws of the decoder's fields and selectors. -/

namespace Sys2Proof

/-- A selector whose field is known is that table index. -/
theorem selector_eq {w : Word} {hi lo k : Nat} (h : bits w hi lo = k) :
    selector w hi lo = ⟨k, h ▸ bits_lt w hi lo⟩ := Fin.ext h

/-- Sign extension agrees with the signed view of the field (R7). -/
theorem sext_toNat {k : Nat} (f : BitVec k) : sext k f.toNat = f.toInt := by
  cases k with
  | zero => simp [sext, BitVec.toInt, Subsingleton.elim f 0]
  | succ n =>
    have hp : (2 : Nat) ^ (n + 1) = 2 * 2 ^ n := by ring
    simp only [sext, BitVec.toInt, Nat.add_sub_cancel]
    have hc : (((2 : Nat) ^ (n + 1) : Nat) : Int) = 2 ^ (n + 1) := by norm_cast
    by_cases hf : f.toNat < 2 ^ n
    · rw [if_pos hf, if_pos (by omega)]
    · rw [if_neg hf, if_neg (by omega), hc]

/-- The decoder takes the table entry of the opcode `w[31:28]`. -/
theorem decodeWord_of_opcode {w : Word} {k : Nat} (h : bits w 31 28 = k) :
    decodeWord w = opcodeMap.get ⟨k, h ▸ bits_lt w 31 28⟩ w := by
  unfold decodeWord; rw [selector_eq h]

/-- An offset whose field is known as a bit vector is 4 times its signed view (R64 to R67). -/
theorem offsetField_eq {w : Word} {hi lo k : Nat} (hk : hi - lo + 1 = k) (f : BitVec k) (h : bits w hi lo = f.toNat) :
    offsetField w hi lo = 4 * f.toInt := by
  subst hk; unfold offsetField; rw [h, sext_toNat]

/-- The number of a word written field by field. -/
theorem append_toNat {n m : Nat} (x : BitVec n) (y : BitVec m) : (x ++ y).toNat = x.toNat * 2 ^ m + y.toNat := by
  rw [BitVec.toNat_append, ← Nat.shiftLeft_add_eq_or_of_lt y.isLt, Nat.shiftLeft_eq]

/-- The number of an encoded instruction's word, where its fields fit. -/
theorem encodeWord_toNat {i : Instr} (h : encodeNat i < 2 ^ 32) : (encodeWord i).toNat = encodeNat i := by
  rw [encodeWord, BitVec.toNat_ofNat, Nat.mod_eq_of_lt h]

end Sys2Proof
end

