-- ==== Sys2Proof/Laws/State.lean ====
section
/-! SUPPORT. One lemma per field per update of State, so that no proof unfolds a record update. -/

namespace Sys2Proof.Machine

variable (s : State)

@[simp] theorem State.setPc_pc (v : Word) : (s.setPc v).pc = v := rfl
@[simp] theorem State.setPc_sp (v : Word) : (s.setPc v).sp = s.sp := rfl
@[simp] theorem State.setPc_mem (v : Word) : (s.setPc v).mem = s.mem := rfl
@[simp] theorem State.setPc_status (v : Word) : (s.setPc v).status = s.status := rfl
@[simp] theorem State.setPc_trace (v : Word) : (s.setPc v).trace = s.trace := rfl
@[simp] theorem State.setPc_host (v : Word) : (s.setPc v).host = s.host := rfl

@[simp] theorem State.setSp_pc (v : Word) : (s.setSp v).pc = s.pc := rfl
@[simp] theorem State.setSp_sp (v : Word) : (s.setSp v).sp = v := rfl
@[simp] theorem State.setSp_mem (v : Word) : (s.setSp v).mem = s.mem := rfl
@[simp] theorem State.setSp_status (v : Word) : (s.setSp v).status = s.status := rfl
@[simp] theorem State.setSp_trace (v : Word) : (s.setSp v).trace = s.trace := rfl
@[simp] theorem State.setSp_host (v : Word) : (s.setSp v).host = s.host := rfl

@[simp] theorem State.setMem_pc (m : Memory) : (s.setMem m).pc = s.pc := rfl
@[simp] theorem State.setMem_sp (m : Memory) : (s.setMem m).sp = s.sp := rfl
@[simp] theorem State.setMem_mem (m : Memory) : (s.setMem m).mem = m := rfl
@[simp] theorem State.setMem_status (m : Memory) : (s.setMem m).status = s.status := rfl
@[simp] theorem State.setMem_trace (m : Memory) : (s.setMem m).trace = s.trace := rfl
@[simp] theorem State.setMem_host (m : Memory) : (s.setMem m).host = s.host := rfl

@[simp] theorem State.setStatus_pc (v : Status) : (s.setStatus v).pc = s.pc := rfl
@[simp] theorem State.setStatus_sp (v : Status) : (s.setStatus v).sp = s.sp := rfl
@[simp] theorem State.setStatus_mem (v : Status) : (s.setStatus v).mem = s.mem := rfl
@[simp] theorem State.setStatus_status (v : Status) : (s.setStatus v).status = v := rfl
@[simp] theorem State.setStatus_trace (v : Status) : (s.setStatus v).trace = s.trace := rfl
@[simp] theorem State.setStatus_host (v : Status) : (s.setStatus v).host = s.host := rfl

@[simp] theorem State.emit_pc (es : List Event) : (s.emit es).pc = s.pc := rfl
@[simp] theorem State.emit_sp (es : List Event) : (s.emit es).sp = s.sp := rfl
@[simp] theorem State.emit_mem (es : List Event) : (s.emit es).mem = s.mem := rfl
@[simp] theorem State.emit_status (es : List Event) : (s.emit es).status = s.status := rfl
@[simp] theorem State.emit_trace (es : List Event) : (s.emit es).trace = s.trace ++ es := rfl
@[simp] theorem State.emit_host (es : List Event) : (s.emit es).host = s.host := rfl

@[simp] theorem State.setHost_pc (h : HostPort) : (s.setHost h).pc = s.pc := rfl
@[simp] theorem State.setHost_sp (h : HostPort) : (s.setHost h).sp = s.sp := rfl
@[simp] theorem State.setHost_mem (h : HostPort) : (s.setHost h).mem = s.mem := rfl
@[simp] theorem State.setHost_status (h : HostPort) : (s.setHost h).status = s.status := rfl
@[simp] theorem State.setHost_trace (h : HostPort) : (s.setHost h).trace = s.trace := rfl
@[simp] theorem State.setHost_host (h : HostPort) : (s.setHost h).host = h := rfl

@[simp] theorem State.raise_pc (c : Cause) : (s.raise c).pc = s.pc := rfl
@[simp] theorem State.raise_sp (c : Cause) : (s.raise c).sp = s.sp := rfl
@[simp] theorem State.raise_mem (c : Cause) : (s.raise c).mem = s.mem := rfl
@[simp] theorem State.raise_status (c : Cause) : (s.raise c).status = .halted c := rfl
@[simp] theorem State.raise_trace (c : Cause) : (s.raise c).trace = s.trace := rfl
@[simp] theorem State.raise_host (c : Cause) : (s.raise c).host = s.host := rfl

@[simp] theorem State.pushWord_pc (v : Word) : (s.pushWord v).pc = s.pc := rfl
@[simp] theorem State.pushWord_sp (v : Word) : (s.pushWord v).sp = s.sp - 4 := rfl
@[simp] theorem State.pushWord_mem (v : Word) : (s.pushWord v).mem = s.mem.writeWord (s.sp - 4).toNat v := rfl
@[simp] theorem State.pushWord_status (v : Word) : (s.pushWord v).status = s.status := rfl
@[simp] theorem State.pushWord_trace (v : Word) : (s.pushWord v).trace = s.trace := rfl
@[simp] theorem State.pushWord_host (v : Word) : (s.pushWord v).host = s.host := rfl

@[simp] theorem State.popWord_pc : s.popWord.2.pc = s.pc := rfl
@[simp] theorem State.popWord_sp : s.popWord.2.sp = s.sp + 4 := rfl
@[simp] theorem State.popWord_mem : s.popWord.2.mem = s.mem := rfl
@[simp] theorem State.popWord_status : s.popWord.2.status = s.status := rfl
@[simp] theorem State.popWord_trace : s.popWord.2.trace = s.trace := rfl
@[simp] theorem State.popWord_host : s.popWord.2.host = s.host := rfl
@[simp] theorem State.popWord_word : s.popWord.1 = s.mem.readWord s.sp.toNat := rfl

@[simp] theorem State.advance_pc : s.advance.pc = s.pc + 4 := rfl
@[simp] theorem State.advance_sp : s.advance.sp = s.sp := rfl
@[simp] theorem State.advance_mem : s.advance.mem = s.mem := rfl
@[simp] theorem State.advance_status : s.advance.status = s.status := rfl
@[simp] theorem State.advance_trace : s.advance.trace = s.trace := rfl
@[simp] theorem State.advance_host : s.advance.host = s.host := rfl

end Sys2Proof.Machine
end

