-- ==== Sys2Proof/Laws/Memory.lean ====
section
/-! SUPPORT. The laws of memory: what a byte reads as after each operation, and that each operation keeps the canonical form. -/

namespace Sys2Proof

theorem Config.N_eq : Config.N = 4096 := rfl

/-- The bytes of a word, put together again, are the word (R40, R41). -/
theorem wordOfBytes_byteOfWord (v : Word) :
    wordOfBytes (byteOfWord v 0) (byteOfWord v 1) (byteOfWord v 2) (byteOfWord v 3) = v := by
  apply BitVec.eq_of_toNat_eq
  simp only [wordOfBytes, byteOfWord, bits, BitVec.toNat_ofNat]
  have := v.isLt
  norm_num
  omega

/-- The bytes of a word put together from four bytes are those bytes (R40, R41). -/
theorem bytesOfWord_wordOfBytes (b0 b1 b2 b3 : Byte) : bytesOfWord (wordOfBytes b0 b1 b2 b3) = [b0, b1, b2, b3] := by
  have := b0.isLt
  have := b1.isLt
  have := b2.isLt
  have := b3.isLt
  simp only [bytesOfWord, byteOfWord, bits, wordOfBytes, List.cons.injEq, and_true]
  refine ⟨?_, ?_, ?_, ?_⟩ <;> apply BitVec.eq_of_toNat_eq <;> simp only [BitVec.toNat_ofNat] <;> omega

namespace Machine

@[simp] theorem Memory.read_nil (x : Nat) : Memory.read [] x = Memory.unlisted := rfl

theorem Memory.read_cons (c : Host.Cell) (m : Memory) (x : Nat) :
    Memory.read (c :: m) x = if c.1 = x then c.2 else Memory.read m x := rfl

theorem Memory.read_filter_ne (m : Memory) (a x : Nat) :
    Memory.read (m.filter fun c => c.1 != a) x = if x = a then Memory.unlisted else m.read x := by
  induction m with
  | nil => simp
  | cons c cs ih =>
    simp only [List.filter_cons]
    split <;> rename_i h <;> simp only [Memory.read_cons, ih] <;> simp at h <;> split_ifs <;> simp_all

theorem Memory.read_insert (m : Memory) (a x : Nat) (b : Byte) (h : m.read a = Memory.unlisted ∨ x ≠ a)
    (hm : ∀ c ∈ m, c.1 ≠ a) : Memory.read (Memory.insert m a b) x = if x = a then b else m.read x := by
  induction m with
  | nil => simp [Memory.insert, Memory.read_cons, eq_comm]
  | cons c cs ih =>
    have hc : c.1 ≠ a := hm c (by simp)
    have hcs : ∀ d ∈ cs, d.1 ≠ a := fun d hd => hm d (by simp [hd])
    have h' : Memory.read cs a = Memory.unlisted ∨ x ≠ a := by
      rcases h with h | h
      · rw [Memory.read_cons, if_neg hc] at h; exact .inl h
      · exact .inr h
    simp only [Memory.insert]
    split
    · simp only [Memory.read_cons, eq_comm]
    · rw [Memory.read_cons, ih h' hcs, Memory.read_cons]
      split_ifs <;> simp_all

/-- Reading a byte after a write (R41): of every list, canonical or not. -/
theorem Memory.read_write (m : Memory) (a x : Nat) (b : Byte) :
    (m.write a b).read x = if x = a then b else m.read x := by
  have hm : ∀ c ∈ m.filter (fun c => c.1 != a), c.1 ≠ a := by simp
  unfold Memory.write
  simp only
  split
  · rename_i hb; rw [Memory.read_filter_ne]; split_ifs <;> simp_all
  · rw [Memory.read_insert _ _ _ _ (.inl (by simp [Memory.read_filter_ne])) hm, Memory.read_filter_ne]
    split_ifs <;> rfl

theorem Memory.insert_mem {m : Memory} {a : Nat} {b : Byte} {c : Host.Cell} (h : c ∈ Memory.insert m a b) :
    c = (a, b) ∨ c ∈ m := by
  induction m with
  | nil => simpa [Memory.insert] using h
  | cons d ds ih =>
    simp only [Memory.insert] at h
    split at h
    · simpa using h
    · rcases List.mem_cons.1 h with h | h
      · exact .inr (by simp [h])
      · rcases ih h with h | h <;> simp [h]

theorem Memory.insert_sorted {m : Memory} {a : Nat} {b : Byte} (h : m.Pairwise (fun c d => c.1 < d.1))
    (hm : ∀ c ∈ m, c.1 ≠ a) : (Memory.insert m a b).Pairwise (fun c d => c.1 < d.1) := by
  induction m with
  | nil => simp [Memory.insert]
  | cons c cs ih =>
    have hc := List.pairwise_cons.1 h
    simp only [Memory.insert]
    split
    · rename_i hlt
      refine List.pairwise_cons.2 ⟨fun d hd => ?_, h⟩
      rcases List.mem_cons.1 hd with rfl | hd
      · exact hlt
      · exact Nat.lt_trans hlt (hc.1 d hd)
    · rename_i hlt
      have hne := hm c (by simp)
      refine List.pairwise_cons.2 ⟨fun d hd => ?_, ih hc.2 fun d hd => hm d (by simp [hd])⟩
      rcases Memory.insert_mem hd with rfl | hd
      · show c.1 < a; omega
      · exact hc.1 d hd

/-- A write below `N` keeps the canonical form. -/
theorem Memory.write_wf {m : Memory} {a : Nat} (b : Byte) (h : m.wf) (ha : a < Config.N) : (m.write a b).wf := by
  have hf : (m.filter fun c => c.1 != a).Pairwise (fun c d => c.1 < d.1) := h.1.filter _
  unfold Memory.write
  simp only
  split
  · exact ⟨hf, fun c hc => h.2 c (List.mem_of_mem_filter hc)⟩
  · rename_i hb
    refine ⟨Memory.insert_sorted hf (by simp), fun c hc => ?_⟩
    rcases Memory.insert_mem hc with rfl | hc
    · exact ⟨ha, hb⟩
    · exact h.2 c (List.mem_of_mem_filter hc)

/-- Reading a byte after a word is written (R41). -/
theorem Memory.read_writeWord (m : Memory) (a x : Nat) (v : Word) :
    (m.writeWord a v).read x = if a ≤ x ∧ x < a + 4 then byteOfWord v (x - a) else m.read x := by
  simp only [Memory.writeWord, Memory.read_write]
  by_cases h : a ≤ x ∧ x < a + 4
  · rw [if_pos h]
    obtain ⟨k, rfl⟩ := Nat.exists_eq_add_of_le h.1
    have hk : k < 4 := by omega
    interval_cases k <;> simp
  · rw [if_neg h]
    split_ifs <;> first | rfl | omega

/-- A word written in bounds keeps the canonical form. -/
theorem Memory.writeWord_wf {m : Memory} {a : Nat} (v : Word) (h : m.wf) (ha : a + 4 ≤ Config.N) :
    (m.writeWord a v).wf :=
  Memory.write_wf _ (Memory.write_wf _ (Memory.write_wf _ (Memory.write_wf _ h (by omega)) (by omega)) (by omega))
    (by omega)

/-- A word reads alike where its four bytes do. -/
theorem Memory.readWord_congr {m m' : Memory} {a : Nat} (h : ∀ x, a ≤ x → x < a + 4 → m'.read x = m.read x) :
    m'.readWord a = m.readWord a := by
  simp only [Memory.readWord]
  rw [h a (by omega) (by omega), h (a + 1) (by omega) (by omega), h (a + 2) (by omega) (by omega),
    h (a + 3) (by omega) (by omega)]

/-- Reading the word just written there (R40, R41). -/
theorem Memory.readWord_writeWord (m : Memory) (a : Nat) (v : Word) : (m.writeWord a v).readWord a = v := by
  simp only [Memory.readWord, Memory.read_writeWord]
  simpa using wordOfBytes_byteOfWord v

/-- Reading a word that shares no byte with the one written. -/
theorem Memory.readWord_writeWord_of_apart (m : Memory) (a b : Nat) (v : Word) (h : b + 4 ≤ a ∨ a + 4 ≤ b) :
    (m.writeWord a v).readWord b = m.readWord b :=
  Memory.readWord_congr fun x h1 h2 => by rw [Memory.read_writeWord, if_neg (by omega)]

theorem Memory.ofBytes_mem_ge {bs : List Byte} {a : Nat} {c : Host.Cell} (h : c ∈ Memory.ofBytes a bs) :
    a ≤ c.1 ∧ c.1 < a + bs.length ∧ c.2 ≠ Memory.unlisted := by
  induction bs generalizing a with
  | nil => simp [Memory.ofBytes] at h
  | cons b bs ih =>
    simp only [Memory.ofBytes] at h
    split at h
    · have := ih h; simp only [List.length_cons]; exact ⟨by omega, by omega, this.2.2⟩
    · rename_i hb
      rcases List.mem_cons.1 h with rfl | h
      · simp [hb]
      · have := ih h; simp only [List.length_cons]; exact ⟨by omega, by omega, this.2.2⟩

/-- The loaded image reads as the body, and as the zero fill elsewhere (R223). -/
theorem Memory.read_ofBytes (bs : List Byte) (a x : Nat) :
    (Memory.ofBytes a bs).read x = if a ≤ x then bs.getD (x - a) Memory.unlisted else Memory.unlisted := by
  induction bs generalizing a with
  | nil => simp [Memory.ofBytes]
  | cons b bs ih =>
    have hs : a < x → x - a = (x - (a + 1)) + 1 := by omega
    simp only [Memory.ofBytes]
    split
    · rename_i hb
      rw [ih]
      rcases Nat.lt_trichotomy a x with h | rfl | h
      · rw [if_pos (by omega), if_pos (by omega), hs h, List.getD_cons_succ]
      · simp [hb]
      · rw [if_neg (by omega), if_neg (by omega)]
    · rw [Memory.read_cons, ih]
      rcases Nat.lt_trichotomy a x with h | rfl | h
      · rw [if_neg (by simp; omega), if_pos (by omega), if_pos (by omega), hs h, List.getD_cons_succ]
      · simp
      · rw [if_neg (by simp; omega), if_neg (by omega), if_neg (by omega)]

/-- The loaded image is in canonical form where it fits. -/
theorem Memory.ofBytes_wf {bs : List Byte} {a : Nat} (h : a + bs.length ≤ Config.N) : (Memory.ofBytes a bs).wf := by
  refine ⟨?_, fun c hc => ⟨by have := Memory.ofBytes_mem_ge hc; omega, (Memory.ofBytes_mem_ge hc).2.2⟩⟩
  clear h
  induction bs generalizing a with
  | nil => simp [Memory.ofBytes]
  | cons b bs ih =>
    simp only [Memory.ofBytes]
    split
    · exact ih
    · exact List.pairwise_cons.2 ⟨fun d hd => by have := (Memory.ofBytes_mem_ge hd).1; show a < d.1; omega, ih⟩

end Machine

end Sys2Proof
end

