-- ==== Sys2Proof/Laws/Ops.lean ====
section
/-! SUPPORT. What each shared operation can do, said once: proofs cite these cases and do not unfold the operation. -/

namespace Sys2Proof.Machine

variable {s : State}

/-- The number SP holds after a push that has room. -/
theorem State.sp_sub_toNat (h : 4 ≤ s.sp.toNat) : (s.sp - 4).toNat = s.sp.toNat - 4 := by
  have := s.sp.isLt
  rw [BitVec.toNat_sub]
  show (2 ^ 32 - 4 + s.sp.toNat) % 2 ^ 32 = _
  omega

/-- The number SP holds after a pop in bounds. -/
theorem State.sp_add_toNat (h : s.sp.toNat + 4 ≤ Config.N) : (s.sp + 4).toNat = s.sp.toNat + 4 := by
  rw [Config.N_eq] at h
  rw [BitVec.toNat_add]
  show (s.sp.toNat + 4) % 2 ^ 32 = _
  omega

/-- The number PC holds after the fetch's advance (R92). -/
theorem State.pc_add_toNat (h : s.pc.toNat + 4 ≤ Config.N) : (s.pc + 4).toNat = s.pc.toNat + 4 := by
  rw [Config.N_eq] at h
  rw [BitVec.toNat_add]
  show (s.pc.toNat + 4) % 2 ^ 32 = _
  omega

/-- `PC0` of the executing instruction is the PC the step began with (R92). -/
theorem State.pc0_advance (h : s.pc.toNat + 4 ≤ Config.N) : s.advance.pc0 = s.pc.toNat := by
  simp only [State.pc0, State.advance_pc, State.pc_add_toNat h]
  omega

/-- An in-range target, as a register value. -/
theorem wrap32_toNat {t : Int} (h0 : 0 ≤ t) (h1 : t < 2 ^ 32) : ((wrap32 t).toNat : Int) = t := by
  rw [wrap32, BitVec.toNat_ofInt, Int.toNat_of_nonneg (Int.emod_nonneg _ (by norm_num))]
  exact Int.emod_eq_of_lt h0 (by simpa using h1)

/-- Push (R96). -/
theorem State.push_cases (s : State) (v : Word) :
    (s.sp.toNat < 4 ∧ s.push v = s.raise (.memFault .stackOverflow ((s.sp.toNat : Int) - 4))) ∨
    (4 ≤ s.sp.toNat ∧ s.push v = s.pushWord v) := by
  unfold State.push
  split
  · exact .inl ⟨‹_›, rfl⟩
  · exact .inr ⟨by omega, rfl⟩

/-- The effect of Push where there is room, field by field (R96). -/
theorem State.pushWord_frame (v : Word) (h : 4 ≤ s.sp.toNat) :
    (s.pushWord v).sp.toNat = s.sp.toNat - 4 ∧ (s.pushWord v).mem.readWord (s.sp.toNat - 4) = v ∧
      ∀ x, x < s.sp.toNat - 4 ∨ s.sp.toNat ≤ x → (s.pushWord v).mem.read x = s.mem.read x := by
  have hs := State.sp_sub_toNat h
  refine ⟨hs, ?_, fun x hx => ?_⟩
  · rw [State.pushWord_mem, hs, Memory.readWord_writeWord]
  · rw [State.pushWord_mem, hs, Memory.read_writeWord, if_neg (by omega)]

/-- Pushing words in turn where there is room for all: word `i` of the list lies `4 * (i + 1)` below the old SP (R96, R114). -/
theorem State.pushAll_frame (vs : List Word) : ∀ s : State, 4 * vs.length ≤ s.sp.toNat →
    (s.pushAll vs).pc = s.pc ∧ (s.pushAll vs).status = s.status ∧ (s.pushAll vs).trace = s.trace ∧
    (s.pushAll vs).host = s.host ∧ (s.pushAll vs).sp.toNat + 4 * vs.length = s.sp.toNat ∧
    (∀ i (h : i < vs.length), (s.pushAll vs).mem.readWord (s.sp.toNat - 4 * (i + 1)) = vs[i]) ∧
    ∀ x, x < (s.pushAll vs).sp.toNat ∨ s.sp.toNat ≤ x → (s.pushAll vs).mem.read x = s.mem.read x := by
  induction vs with
  | nil => intro s _; simp [State.pushAll]
  | cons v vs ih =>
    intro s hs
    simp only [List.length_cons] at hs
    rcases s.push_cases v with ⟨h, -⟩ | ⟨h4, e⟩
    · omega
    have et : s.pushAll (v :: vs) = (s.pushWord v).pushAll vs := by rw [← e]; rfl
    obtain ⟨f1, f2, f3⟩ := State.pushWord_frame v h4
    obtain ⟨a, b, c, d, f, g, k⟩ := ih (s.pushWord v) (by omega)
    rw [f1] at f g k
    simp only [et, List.length_cons]
    refine ⟨a, b, c, d, by omega, fun i hi => ?_, fun x hx => by rw [k x (by omega), f3 x (by omega)]⟩
    cases i with
    | zero => exact (Memory.readWord_congr fun x h1 h2 => k x (by omega)).trans f2
    | succ i =>
      rw [List.getElem_cons_succ, ← g i (by omega)]
      congr 1; omega

/-- Redirect (R100). -/
theorem State.redirect_cases (s : State) (t : Int) :
    ((t < 0 ∨ (Config.N : Int) ≤ t) ∧ s.redirect t = (s.emit [.jumpFaultDiag t]).raise (.jumpFault t)) ∨
    (0 ≤ t ∧ t < Config.N ∧ s.redirect t = s.setPc (wrap32 t)) := by
  unfold State.redirect
  split
  · exact .inl ⟨‹_›, rfl⟩
  · exact .inr ⟨by omega, by omega, rfl⟩

/-- SWAP (R112). -/
theorem State.swapWords_cases (s : State) (a b : Int) :
    (inBounds a ∧ inBounds b ∧ s.swapWords a b =
      s.setMem ((s.mem.writeWord a.toNat (s.mem.readWord b.toNat)).writeWord b.toNat (s.mem.readWord a.toNat))) ∨
    ((¬ inBounds a ∨ ¬ inBounds b) ∧ s.swapWords a b = s) := by
  unfold State.swapWords
  split
  · rename_i h; exact .inl ⟨h.1, h.2, rfl⟩
  · rename_i h; exact .inr ⟨not_and_or.1 h, rfl⟩

/-- STINPUT once the line is there (R114). -/
theorem State.takeLine_cases (s : State) (max : Nat) (line : List Byte) :
    (s.sp.toNat < 4 * chunkCount (line.take max).length ∧ s.takeLine max line = (s.emit [.inLine line]).raise
      (.memFault .stackOverflow ((s.sp.toNat : Int) - (4 * chunkCount (line.take max).length : Nat)))) ∨
    (4 * chunkCount (line.take max).length ≤ s.sp.toNat ∧
      s.takeLine max line = (s.emit [.inLine line]).pushAll (chunksInPushOrder (line.take max))) := by
  unfold State.takeLine
  simp only
  split
  · exact .inl ⟨‹_›, rfl⟩
  · exact .inr ⟨by omega, rfl⟩

/-- DUP (R131). -/
theorem State.dupWith_cases (s : State) (off : Int) :
    (inBounds (s.spRel off) ∧ s.dupWith true off = s.push (s.mem.readWord (s.spRel off).toNat)) ∨
    (¬ inBounds (s.spRel off) ∧ s.dupWith true off = s.raise (.memFault .badAddress (s.spRel off))) := by
  unfold State.dupWith
  by_cases h : inBounds (s.spRel off)
  · exact .inl ⟨h, by simp [h]⟩
  · exact .inr ⟨h, by simp [h]⟩

/-- The common part of the binary instructions (R140). -/
theorem State.binaryOp_cases (s : State) (f : Word → Word → Word) :
    (s.sp.toNat + 4 > Config.N ∧ s.binaryOp f = s.raise (.memFault .stackUnderflow s.sp.toNat)) ∨
    (s.sp.toNat + 4 ≤ Config.N ∧ s.sp.toNat + 8 > Config.N ∧
      s.binaryOp f = s.raise (.memFault .stackUnderflow ((s.sp.toNat : Int) + 4))) ∨
    (s.sp.toNat + 8 ≤ Config.N ∧ s.binaryOp f = (s.setSp (s.sp + 4)).setMem (s.mem.writeWord (s.sp.toNat + 4)
      (f (s.mem.readWord (s.sp.toNat + 4)) (s.mem.readWord s.sp.toNat)))) := by
  unfold State.binaryOp
  split
  · exact .inl ⟨‹_›, rfl⟩
  · split
    · exact .inr (.inl ⟨by omega, ‹_›, rfl⟩)
    · refine .inr (.inr ⟨by omega, ?_⟩)
      have h4 : (s.sp + 4).toNat = s.sp.toNat + 4 := State.sp_add_toNat (by omega)
      have he : s.sp + 4 + 4 - 4 = s.sp + 4 := by bv_omega
      simp only [State.popWord, State.pushWord, State.setSp, State.setMem, h4, he]

/-- The common part of the unary instructions (R153). -/
theorem State.unaryOp_cases (s : State) (g : Word → Word) :
    (s.sp.toNat + 4 > Config.N ∧ s.unaryOp g = s.raise (.memFault .stackUnderflow s.sp.toNat)) ∨
    (s.sp.toNat + 4 ≤ Config.N ∧
      s.unaryOp g = s.setMem (s.mem.writeWord s.sp.toNat (g (s.mem.readWord s.sp.toNat)))) := by
  unfold State.unaryOp
  split
  · exact .inl ⟨‹_›, rfl⟩
  · have he : s.sp + 4 - 4 = s.sp := by bv_omega
    exact .inr ⟨by omega, by simp only [State.popWord, State.pushWord, State.setSp, State.setMem, he]⟩

/-- CALL (R170). -/
theorem State.call_cases (s : State) (off : Int) :
    (s.sp.toNat < 4 ∧ s.call off = s.raise (.memFault .stackOverflow ((s.sp.toNat : Int) - 4))) ∨
    (4 ≤ s.sp.toNat ∧ s.call off = (s.pushWord s.pc).redirect (s.pc0 + off)) := by
  unfold State.call
  split
  · exact .inl ⟨‹_›, rfl⟩
  · exact .inr ⟨by omega, rfl⟩

/-- RET (R171), with `a` the address of the word it pops. -/
theorem State.retWith_cases (s : State) (count a : Nat) (ha : a = s.sp.toNat + count) :
    (a + 4 > Config.N ∧ s.retWith true count = s.raise (.memFault .stackUnderflow a)) ∨
    (a + 4 ≤ Config.N ∧ Config.N ≤ (s.mem.readWord a).toNat ∧ s.retWith true count =
      (s.emit [.jumpFaultDiag (s.mem.readWord a).toNat]).raise (.jumpFault (s.mem.readWord a).toNat)) ∨
    (a + 4 ≤ Config.N ∧ (s.mem.readWord a).toNat < Config.N ∧
      s.retWith true count = (s.setSp (BitVec.ofNat 32 (a + 4))).setPc (s.mem.readWord a)) := by
  subst ha
  unfold State.retWith
  simp only [if_true]
  split
  · exact .inl ⟨‹_›, rfl⟩
  · split
    · exact .inr (.inl ⟨by omega, ‹_›, rfl⟩)
    · exact .inr (.inr ⟨by omega, by omega, by rw [BitVec.ofNat_toNat, BitVec.setWidth_eq]⟩)

/-- The common part of the binary conditional jumps (R173). -/
theorem State.binaryJump_cases (s : State) (cond : Word → Word → Bool) (off : Int) :
    (s.sp.toNat + 4 > Config.N ∧ s.binaryJump cond off = s.raise (.memFault .stackUnderflow s.sp.toNat)) ∨
    (s.sp.toNat + 4 ≤ Config.N ∧ cond s.peekLeft s.peekTop = true ∧ s.binaryJump cond off = s.redirect (s.pc0 + off)) ∨
    (s.sp.toNat + 4 ≤ Config.N ∧ cond s.peekLeft s.peekTop = false ∧ s.binaryJump cond off = s) := by
  unfold State.binaryJump
  split
  · exact .inl ⟨‹_›, rfl⟩
  · split
    · exact .inr (.inl ⟨by omega, ‹_›, rfl⟩)
    · exact .inr (.inr ⟨by omega, Bool.eq_false_iff.2 ‹_›, rfl⟩)

/-- The common part of the unary conditional jumps (R181). -/
theorem State.unaryJump_cases (s : State) (cond : Word → Bool) (off : Int) :
    (s.sp.toNat + 4 > Config.N ∧ s.unaryJump cond off = s.raise (.memFault .stackUnderflow s.sp.toNat)) ∨
    (s.sp.toNat + 4 ≤ Config.N ∧ cond s.peekTop = true ∧ s.unaryJump cond off = s.redirect (s.pc0 + off)) ∨
    (s.sp.toNat + 4 ≤ Config.N ∧ cond s.peekTop = false ∧ s.unaryJump cond off = s) := by
  unfold State.unaryJump
  split
  · exact .inl ⟨‹_›, rfl⟩
  · split
    · exact .inr (.inl ⟨by omega, ‹_›, rfl⟩)
    · exact .inr (.inr ⟨by omega, Bool.eq_false_iff.2 ‹_›, rfl⟩)

/-- PRINTS (R190). -/
theorem State.printString_cases (s : State) (off : Int) :
    (s.spRel off < 0 ∧ s.printString off = s.raise (.memFault .badAddress (s.spRel off))) ∨
    (0 ≤ s.spRel off ∧ s.printString off = s.emit (printWords s.mem (Config.N / 4) (s.spRel off).toNat)) := by
  unfold State.printString
  split
  · exact .inl ⟨‹_›, rfl⟩
  · exact .inr ⟨by omega, rfl⟩

/-- PRINT.fmt (R191). -/
theorem State.printNum_cases (s : State) (fmt : NumFmt) (off : Int) :
    (inBounds (s.spRel off) ∧ s.printNum fmt off = s.emit [.num fmt (s.mem.readWord (s.spRel off).toNat)]) ∨
    (¬ inBounds (s.spRel off) ∧ s.printNum fmt off = s.raise (.memFault .badAddress (s.spRel off))) := by
  unfold State.printNum
  split
  · exact .inl ⟨‹_›, rfl⟩
  · exact .inr ⟨‹_›, rfl⟩

/-- A step that answers a next state (R90 to R93): STATUS was Running, and either no whole word lay at PC, or the fetched
instruction ran. -/
theorem step_cases {t : State} (h : step s = .next t) :
    s.status = .running ∧
    ((s.pc.toNat + 4 > Config.N ∧ t = s.raise (.fetchBound s.pc)) ∨
     (s.pc.toNat + 4 ≤ Config.N ∧ exec (decodeWord s.fetchedWord) s.advance = .next t)) := by
  unfold step at h
  split at h
  · rename_i hs
    refine ⟨hs, ?_⟩
    split at h
    · rename_i hf; exact .inr ⟨by simpa [State.fetchFits] using hf, h⟩
    · rename_i hf
      refine .inl ⟨by simpa [State.fetchFits] using hf, ?_⟩
      cases h; rfl
  · cases h
  · cases h

end Sys2Proof.Machine
end

