-- ==== Sys2Proof/Laws/PerInstr.lean ====
section
/-! SUPPORT. Statements about every instruction, one lemma per constructor. `EncodingFits`: the number of a well-formed
instruction's encoding fits in one word (spec/30_encoding.md R60), so that `encodeWord` drops no bit of it. -/

namespace Sys2Proof.Laws

def EncodingFits.Statement (i : Instr) : Prop := i.wf = true → encodeNat i < 2 ^ 32

theorem fieldOf_lt {k m : Nat} (o : Int) (h : 2 ^ k ≤ m) : fieldOf k o < m := by
  have hp : (0 : Int) < 2 ^ k := by positivity
  have h0 := Int.emod_nonneg o (ne_of_gt hp)
  have h1 := Int.emod_lt_of_pos o hp
  have h2 : fieldOf k o < 2 ^ k := by
    unfold fieldOf
    zify
    rw [Int.toNat_of_nonneg h0]
    exact h1
  omega

theorem EncodingFits.exit (code : Int) : EncodingFits.Statement (.exit code) := fun _ => by
  have hf := fieldOf_lt (k := 8) (m := 256) code (by norm_num)
  simp only [encodeNat]
  omega
theorem EncodingFits.swap (offA offB : Int) : EncodingFits.Statement (.swap offA offB) := fun _ => by
  have ha := fieldOf_lt (k := 12) (m := 4096) (offA / 4) (by norm_num)
  have hb := fieldOf_lt (k := 12) (m := 4096) (offB / 4) (by norm_num)
  simp only [encodeNat]
  omega
theorem EncodingFits.miscReserved2 : EncodingFits.Statement .miscReserved2 := fun _ => by decide
theorem EncodingFits.miscReserved3 : EncodingFits.Statement .miscReserved3 := fun _ => by decide
theorem EncodingFits.input : EncodingFits.Statement .input := fun _ => by decide
theorem EncodingFits.stinput (max : Nat) : EncodingFits.Statement (.stinput max) := fun h => by
  simp only [Instr.wf, decide_eq_true_eq] at h
  simp only [encodeNat]
  omega
theorem EncodingFits.miscReserved6 : EncodingFits.Statement .miscReserved6 := fun _ => by decide
theorem EncodingFits.miscReserved7 : EncodingFits.Statement .miscReserved7 := fun _ => by decide
theorem EncodingFits.miscReserved8 : EncodingFits.Statement .miscReserved8 := fun _ => by decide
theorem EncodingFits.miscReserved9 : EncodingFits.Statement .miscReserved9 := fun _ => by decide
theorem EncodingFits.miscReservedA : EncodingFits.Statement .miscReservedA := fun _ => by decide
theorem EncodingFits.miscReservedB : EncodingFits.Statement .miscReservedB := fun _ => by decide
theorem EncodingFits.miscReservedC : EncodingFits.Statement .miscReservedC := fun _ => by decide
theorem EncodingFits.miscReservedD : EncodingFits.Statement .miscReservedD := fun _ => by decide
theorem EncodingFits.miscReservedE : EncodingFits.Statement .miscReservedE := fun _ => by decide
theorem EncodingFits.debug (imm24 : Nat) : EncodingFits.Statement (.debug imm24) := fun h => by
  simp only [Instr.wf, decide_eq_true_eq] at h
  simp only [encodeNat]
  omega
theorem EncodingFits.pop (count : Nat) : EncodingFits.Statement (.pop count) := fun h => by
  simp only [Instr.wf, decide_eq_true_eq] at h
  simp only [encodeNat]
  omega
theorem EncodingFits.add : EncodingFits.Statement .add := fun _ => by decide
theorem EncodingFits.sub : EncodingFits.Statement .sub := fun _ => by decide
theorem EncodingFits.mul : EncodingFits.Statement .mul := fun _ => by decide
theorem EncodingFits.div : EncodingFits.Statement .div := fun _ => by decide
theorem EncodingFits.mod : EncodingFits.Statement .mod := fun _ => by decide
theorem EncodingFits.and : EncodingFits.Statement .and := fun _ => by decide
theorem EncodingFits.or : EncodingFits.Statement .or := fun _ => by decide
theorem EncodingFits.xor : EncodingFits.Statement .xor := fun _ => by decide
theorem EncodingFits.shl : EncodingFits.Statement .shl := fun _ => by decide
theorem EncodingFits.shr : EncodingFits.Statement .shr := fun _ => by decide
theorem EncodingFits.sar : EncodingFits.Statement .sar := fun _ => by decide
theorem EncodingFits.arith2UnrecognizedB : EncodingFits.Statement .arith2UnrecognizedB := fun _ => by decide
theorem EncodingFits.arith2UnrecognizedC : EncodingFits.Statement .arith2UnrecognizedC := fun _ => by decide
theorem EncodingFits.arith2UnrecognizedD : EncodingFits.Statement .arith2UnrecognizedD := fun _ => by decide
theorem EncodingFits.arith2UnrecognizedE : EncodingFits.Statement .arith2UnrecognizedE := fun _ => by decide
theorem EncodingFits.arith2UnrecognizedF : EncodingFits.Statement .arith2UnrecognizedF := fun _ => by decide
theorem EncodingFits.neg : EncodingFits.Statement .neg := fun _ => by decide
theorem EncodingFits.not : EncodingFits.Statement .not := fun _ => by decide
theorem EncodingFits.arith1Unrecognized2 : EncodingFits.Statement .arith1Unrecognized2 := fun _ => by decide
theorem EncodingFits.arith1Unrecognized3 : EncodingFits.Statement .arith1Unrecognized3 := fun _ => by decide
theorem EncodingFits.arith1Unrecognized4 : EncodingFits.Statement .arith1Unrecognized4 := fun _ => by decide
theorem EncodingFits.arith1Unrecognized5 : EncodingFits.Statement .arith1Unrecognized5 := fun _ => by decide
theorem EncodingFits.arith1Unrecognized6 : EncodingFits.Statement .arith1Unrecognized6 := fun _ => by decide
theorem EncodingFits.arith1Unrecognized7 : EncodingFits.Statement .arith1Unrecognized7 := fun _ => by decide
theorem EncodingFits.arith1Unrecognized8 : EncodingFits.Statement .arith1Unrecognized8 := fun _ => by decide
theorem EncodingFits.arith1Unrecognized9 : EncodingFits.Statement .arith1Unrecognized9 := fun _ => by decide
theorem EncodingFits.arith1UnrecognizedA : EncodingFits.Statement .arith1UnrecognizedA := fun _ => by decide
theorem EncodingFits.arith1UnrecognizedB : EncodingFits.Statement .arith1UnrecognizedB := fun _ => by decide
theorem EncodingFits.arith1UnrecognizedC : EncodingFits.Statement .arith1UnrecognizedC := fun _ => by decide
theorem EncodingFits.arith1UnrecognizedD : EncodingFits.Statement .arith1UnrecognizedD := fun _ => by decide
theorem EncodingFits.arith1UnrecognizedE : EncodingFits.Statement .arith1UnrecognizedE := fun _ => by decide
theorem EncodingFits.arith1UnrecognizedF : EncodingFits.Statement .arith1UnrecognizedF := fun _ => by decide
theorem EncodingFits.prints (off : Int) : EncodingFits.Statement (.prints off) := fun _ => by
  have hf := fieldOf_lt (k := 28) (m := 268435456) off (by norm_num)
  simp only [encodeNat]
  omega
theorem EncodingFits.call (off : Int) : EncodingFits.Statement (.call off) := fun _ => by
  have hf := fieldOf_lt (k := 28) (m := 268435456) off (by norm_num)
  simp only [encodeNat]
  omega
theorem EncodingFits.ret (count : Nat) : EncodingFits.Statement (.ret count) := fun h => by
  simp only [Instr.wf, decide_eq_true_eq] at h
  simp only [encodeNat]
  omega
theorem EncodingFits.goto (off : Int) : EncodingFits.Statement (.goto off) := fun _ => by
  have hf := fieldOf_lt (k := 28) (m := 268435456) off (by norm_num)
  simp only [encodeNat]
  omega
theorem EncodingFits.jeq (off : Int) : EncodingFits.Statement (.jeq off) := fun _ => by
  have hf := fieldOf_lt (k := 25) (m := 33554432) off (by norm_num)
  simp only [encodeNat]
  omega
theorem EncodingFits.jne (off : Int) : EncodingFits.Statement (.jne off) := fun _ => by
  have hf := fieldOf_lt (k := 25) (m := 33554432) off (by norm_num)
  simp only [encodeNat]
  omega
theorem EncodingFits.jlt (off : Int) : EncodingFits.Statement (.jlt off) := fun _ => by
  have hf := fieldOf_lt (k := 25) (m := 33554432) off (by norm_num)
  simp only [encodeNat]
  omega
theorem EncodingFits.jgt (off : Int) : EncodingFits.Statement (.jgt off) := fun _ => by
  have hf := fieldOf_lt (k := 25) (m := 33554432) off (by norm_num)
  simp only [encodeNat]
  omega
theorem EncodingFits.jle (off : Int) : EncodingFits.Statement (.jle off) := fun _ => by
  have hf := fieldOf_lt (k := 25) (m := 33554432) off (by norm_num)
  simp only [encodeNat]
  omega
theorem EncodingFits.jge (off : Int) : EncodingFits.Statement (.jge off) := fun _ => by
  have hf := fieldOf_lt (k := 25) (m := 33554432) off (by norm_num)
  simp only [encodeNat]
  omega
theorem EncodingFits.jbUndefined6 : EncodingFits.Statement .jbUndefined6 := fun _ => by decide
theorem EncodingFits.jbUndefined7 : EncodingFits.Statement .jbUndefined7 := fun _ => by decide
theorem EncodingFits.jz (off : Int) : EncodingFits.Statement (.jz off) := fun _ => by
  have hf := fieldOf_lt (k := 26) (m := 67108864) off (by norm_num)
  simp only [encodeNat]
  omega
theorem EncodingFits.jnz (off : Int) : EncodingFits.Statement (.jnz off) := fun _ => by
  have hf := fieldOf_lt (k := 26) (m := 67108864) off (by norm_num)
  simp only [encodeNat]
  omega
theorem EncodingFits.jneg (off : Int) : EncodingFits.Statement (.jneg off) := fun _ => by
  have hf := fieldOf_lt (k := 26) (m := 67108864) off (by norm_num)
  simp only [encodeNat]
  omega
theorem EncodingFits.jnneg (off : Int) : EncodingFits.Statement (.jnneg off) := fun _ => by
  have hf := fieldOf_lt (k := 26) (m := 67108864) off (by norm_num)
  simp only [encodeNat]
  omega
theorem EncodingFits.nopA : EncodingFits.Statement .nopA := fun _ => by decide
theorem EncodingFits.dup (off : Int) : EncodingFits.Statement (.dup off) := fun _ => by
  have hf := fieldOf_lt (k := 28) (m := 268435456) off (by norm_num)
  simp only [encodeNat]
  omega
theorem EncodingFits.nopC : EncodingFits.Statement .nopC := fun _ => by decide
theorem EncodingFits.printDec (off : Int) : EncodingFits.Statement (.printDec off) := fun _ => by
  have hf := fieldOf_lt (k := 26) (m := 67108864) off (by norm_num)
  simp only [encodeNat]
  omega
theorem EncodingFits.printHex (off : Int) : EncodingFits.Statement (.printHex off) := fun _ => by
  have hf := fieldOf_lt (k := 26) (m := 67108864) off (by norm_num)
  simp only [encodeNat]
  omega
theorem EncodingFits.printBin (off : Int) : EncodingFits.Statement (.printBin off) := fun _ => by
  have hf := fieldOf_lt (k := 26) (m := 67108864) off (by norm_num)
  simp only [encodeNat]
  omega
theorem EncodingFits.printOct (off : Int) : EncodingFits.Statement (.printOct off) := fun _ => by
  have hf := fieldOf_lt (k := 26) (m := 67108864) off (by norm_num)
  simp only [encodeNat]
  omega
theorem EncodingFits.dump : EncodingFits.Statement .dump := fun _ => by decide
theorem EncodingFits.push (imm28 : Nat) : EncodingFits.Statement (.push imm28) := fun h => by
  simp only [Instr.wf, decide_eq_true_eq] at h
  simp only [encodeNat]
  omega

end Sys2Proof.Laws
end

