-- ==== Sys2Proof/Tests/Slice0.lean ====
section
/-! SUPPORT. The model's own tests. Words and expected results are those of spec/95_test_vectors.md (V1 to V175, S1 to S10),
derived there from the rules by hand; the witnesses show that the hypotheses of each obligation can be met, clause by clause. -/

namespace Sys2Proof.Tests

open Sys2Proof.Machine Sys2Proof.Claims

/-- A running machine with the given words in memory. -/
def start (pc sp : Nat) (words : List (Nat × Nat)) : State where
  pc := BitVec.ofNat 32 pc
  sp := BitVec.ofNat 32 sp
  mem := words.foldl (fun m p => m.writeWord p.1 (BitVec.ofNat 32 p.2)) []
  status := .running
  trace := []
  host := { words := [], lines := [], answers := true, drawn := 0 }

/-- The same, with answers the host has settled. -/
def hosted (pc sp : Nat) (words : List (Nat × Nat)) (answers : List Word) (lines : List (List Byte)) : State :=
  (start pc sp words).setHost { words := answers, lines := lines, answers := true, drawn := 0 }

/-- The outcome is a next state with this PC, SP, STATUS and trace, and with these words in memory. -/
def shows (o : Host.Outcome State Fault Refusal) (pc sp : Nat) (status : Status) (words : List (Nat × Nat))
    (es : List Event) : Bool :=
  match o with
  | .next t => t.pc.toNat == pc && t.sp.toNat == sp && decide (t.status = status) && decide (t.trace = es) &&
      words.all fun p => (t.mem.readWord p.1).toNat == p.2
  | .fault _ => false
  | .refused _ => false

/-- The outcome of a step is this fault. -/
def faults (o : Host.Outcome State Fault Refusal) (f : Fault) : Bool :=
  match o with
  | .fault g => decide (g = f)
  | .next _ => false
  | .refused _ => false

/-! ## Ill-formed instructions are refused, each check by its own (R64 to R70, R82) -/

theorem test_wf_refuses_exit_code : [.exit (-129), .exit 128].all (fun i : Instr => !i.wf) = true := by decide

theorem test_wf_refuses_swap_offsets : [.swap (-8196) 0, .swap 8192 0, .swap 2 0, .swap 0 (-8196), .swap 0 8192, .swap 0 2].all (fun i : Instr => !i.wf) = true := by decide

theorem test_wf_refuses_stinput_count : [.stinput (2 ^ 24)].all (fun i : Instr => !i.wf) = true := by decide

theorem test_wf_refuses_debug_immediate : [.debug (2 ^ 24)].all (fun i : Instr => !i.wf) = true := by decide

theorem test_wf_refuses_counts : [.pop (2 ^ 28), .ret (2 ^ 28), .push (2 ^ 28)].all (fun i : Instr => !i.wf) = true := by decide

theorem test_wf_refuses_o26_offsets : [Instr.prints, Instr.call, Instr.goto, Instr.dup].all (fun c : Int → Instr =>
    !(c (2 ^ 27)).wf && !(c (-(2 ^ 27) - 4)).wf && !(c 6).wf && (c (2 ^ 27 - 4)).wf && (c (-(2 ^ 27))).wf) = true := by decide

theorem test_wf_refuses_c3_offsets : [Instr.jeq, Instr.jne, Instr.jlt, Instr.jgt, Instr.jle, Instr.jge].all (fun c : Int → Instr =>
    !(c (2 ^ 24)).wf && !(c (-(2 ^ 24) - 4)).wf && !(c 6).wf && (c (2 ^ 24 - 4)).wf && (c (-(2 ^ 24))).wf) = true := by decide

theorem test_wf_refuses_c2_offsets : [Instr.jz, Instr.jnz, Instr.jneg, Instr.jnneg, Instr.printDec, Instr.printHex, Instr.printBin, Instr.printOct].all (fun c : Int → Instr =>
    !(c (2 ^ 25)).wf && !(c (-(2 ^ 25) - 4)).wf && !(c 6).wf && (c (2 ^ 25 - 4)).wf && (c (-(2 ^ 25))).wf) = true := by decide

/-! ## Decoding: a word of every constructor, written field by field from the encodings (R61 to R79) -/

/-- Each word is the instruction beside it. -/
def decodes (l : List (Word × Instr)) : Bool := l.all fun p => decide (decodeWord p.1 = p.2)

/-- Family 0x0: `op = 0000`, `sub = w[27:24]`; EXIT, SWAP, STINPUT, DEBUG fields (R67, R69, R70, R74); V10, V13, V17. -/
theorem test_decode_misc : decodes [
    (0x0#4 ++ 0x0#4 ++ 0xABCD#16 ++ 0xFE#8, .exit (-2)),
    (0x0#4 ++ 0x1#4 ++ 0xFFF#12 ++ 0x002#12, .swap (-4) 8),
    (0x0#4 ++ 0x4#4 ++ 0xFFFFFF#24, .input),
    (0x0#4 ++ 0x5#4 ++ 0x000010#24, .stinput 16),
    (0x0#4 ++ 0xF#4 ++ 0x80002A#24, .debug 0x80002A)] = true := by decide

/-- Family 0x0: the eleven reserved sub-opcodes (R74, R116). -/
theorem test_decode_misc_reserved : decodes [
    (0x0#4 ++ 0x2#4 ++ 0x123456#24, .miscReserved2),
    (0x0#4 ++ 0x3#4 ++ 0x123456#24, .miscReserved3),
    (0x0#4 ++ 0x6#4 ++ 0x123456#24, .miscReserved6),
    (0x0#4 ++ 0x7#4 ++ 0x123456#24, .miscReserved7),
    (0x0#4 ++ 0x8#4 ++ 0x123456#24, .miscReserved8),
    (0x0#4 ++ 0x9#4 ++ 0x123456#24, .miscReserved9),
    (0x0#4 ++ 0xA#4 ++ 0x123456#24, .miscReservedA),
    (0x0#4 ++ 0xB#4 ++ 0x123456#24, .miscReservedB),
    (0x0#4 ++ 0xC#4 ++ 0x123456#24, .miscReservedC),
    (0x0#4 ++ 0xD#4 ++ 0x123456#24, .miscReservedD),
    (0x0#4 ++ 0xE#4 ++ 0x123456#24, .miscReservedE)] = true := by decide

/-- Family 0x2: `sub = w[27:24]`, `w[23:0]` ignored (R75); V99c. -/
theorem test_decode_binary : decodes [
    (0x2#4 ++ 0x0#4 ++ 0xABCDEF#24, .add),
    (0x2#4 ++ 0x1#4 ++ 0xABCDEF#24, .sub),
    (0x2#4 ++ 0x2#4 ++ 0xABCDEF#24, .mul),
    (0x2#4 ++ 0x3#4 ++ 0xABCDEF#24, .div),
    (0x2#4 ++ 0x4#4 ++ 0xABCDEF#24, .mod),
    (0x2#4 ++ 0x5#4 ++ 0xABCDEF#24, .and),
    (0x2#4 ++ 0x6#4 ++ 0xABCDEF#24, .or),
    (0x2#4 ++ 0x7#4 ++ 0xABCDEF#24, .xor),
    (0x2#4 ++ 0x8#4 ++ 0xABCDEF#24, .shl),
    (0x2#4 ++ 0x9#4 ++ 0xABCDEF#24, .shr),
    (0x2#4 ++ 0xA#4 ++ 0xABCDEF#24, .sar),
    (0x2#4 ++ 0xB#4 ++ 0x000001#24, .arith2UnrecognizedB),
    (0x2#4 ++ 0xC#4 ++ 0x000001#24, .arith2UnrecognizedC),
    (0x2#4 ++ 0xD#4 ++ 0x000001#24, .arith2UnrecognizedD),
    (0x2#4 ++ 0xE#4 ++ 0x000001#24, .arith2UnrecognizedE),
    (0x2#4 ++ 0xF#4 ++ 0x000001#24, .arith2UnrecognizedF)] = true := by decide

/-- Family 0x3: `sub = w[27:24]`, `w[23:0]` ignored (R63, R76). -/
theorem test_decode_unary : decodes [
    (0x3#4 ++ 0x0#4 ++ 0xABCDEF#24, .neg),
    (0x3#4 ++ 0x1#4 ++ 0xABCDEF#24, .not),
    (0x3#4 ++ 0x2#4 ++ 0x000001#24, .arith1Unrecognized2),
    (0x3#4 ++ 0x3#4 ++ 0x000001#24, .arith1Unrecognized3),
    (0x3#4 ++ 0x4#4 ++ 0x000001#24, .arith1Unrecognized4),
    (0x3#4 ++ 0x5#4 ++ 0x000001#24, .arith1Unrecognized5),
    (0x3#4 ++ 0x6#4 ++ 0x000001#24, .arith1Unrecognized6),
    (0x3#4 ++ 0x7#4 ++ 0x000001#24, .arith1Unrecognized7),
    (0x3#4 ++ 0x8#4 ++ 0x000001#24, .arith1Unrecognized8),
    (0x3#4 ++ 0x9#4 ++ 0x000001#24, .arith1Unrecognized9),
    (0x3#4 ++ 0xA#4 ++ 0x000001#24, .arith1UnrecognizedA),
    (0x3#4 ++ 0xB#4 ++ 0x000001#24, .arith1UnrecognizedB),
    (0x3#4 ++ 0xC#4 ++ 0x000001#24, .arith1UnrecognizedC),
    (0x3#4 ++ 0xD#4 ++ 0x000001#24, .arith1UnrecognizedD),
    (0x3#4 ++ 0xE#4 ++ 0x000001#24, .arith1UnrecognizedE),
    (0x3#4 ++ 0xF#4 ++ 0x000001#24, .arith1UnrecognizedF)] = true := by decide

/-- Format O26: `4 * sext_26(w[27:2])`, `w[1:0]` ignored (R62, R64, R72); V51, V110, V114, V145. -/
theorem test_decode_offset26 : decodes [
    (0x4#4 ++ 0x3FFF800#26 ++ 0b11#2, .prints (-8192)),
    (0x5#4 ++ 0x2000000#26 ++ 0b01#2, .call (-(2 ^ 27))),
    (0x5#4 ++ 0x1FFFFFF#26 ++ 0b00#2, .call (2 ^ 27 - 4)),
    (0x7#4 ++ 0x0000002#26 ++ 0b11#2, .goto 8),
    (0xB#4 ++ 0x3FFFFFF#26 ++ 0b00#2, .dup (-4))] = true := by decide

/-- Formats I28 and Z: `w[27:0]` unsigned, or ignored (R62, R68); V2, V47, V55, V106. -/
theorem test_decode_imm28_and_z : decodes [
    (0x1#4 ++ 0xFFFFFFF#28, .pop 0xFFFFFFF),
    (0x6#4 ++ 0x0000008#28, .ret 8),
    (0xF#4 ++ 0x800007B#28, .push 0x800007B),
    (0xA#4 ++ 0xFFFFFFF#28, .nopA),
    (0xC#4 ++ 0xFFFFFFF#28, .nopC),
    (0xE#4 ++ 0xFFFFFFF#28, .dump)] = true := by decide

/-- Format C3: `cond3 = w[27:25]`, `4 * sext_23(w[24:2])`, `w[1:0]` ignored (R66, R71, R77); V120, V126, V128. -/
theorem test_decode_binary_jumps : decodes [
    (0x8#4 ++ 0#3 ++ 0x7FFFE7#23 ++ 0b10#2, .jeq (-100)),
    (0x8#4 ++ 1#3 ++ 0x7FFFE7#23 ++ 0b10#2, .jne (-100)),
    (0x8#4 ++ 2#3 ++ 0x7FFFE7#23 ++ 0b10#2, .jlt (-100)),
    (0x8#4 ++ 3#3 ++ 0x7FFFE7#23 ++ 0b10#2, .jgt (-100)),
    (0x8#4 ++ 4#3 ++ 0x7FFFE7#23 ++ 0b10#2, .jle (-100)),
    (0x8#4 ++ 5#3 ++ 0x7FFFE7#23 ++ 0b10#2, .jge (-100)),
    (0x8#4 ++ 5#3 ++ 0x3FFFFF#23 ++ 0b00#2, .jge (2 ^ 24 - 4)),
    (0x8#4 ++ 6#3 ++ 0x000004#23 ++ 0b00#2, .jbUndefined6),
    (0x8#4 ++ 7#3 ++ 0x7FFFFF#23 ++ 0b11#2, .jbUndefined7)] = true := by decide

/-- Format C2: `sel2 = w[27:26]`, `4 * sext_24(w[25:2])`, `w[1:0]` ignored (R65, R71, R77, R78); V130, V131, V157. -/
theorem test_decode_unary_jumps_and_prints : decodes [
    (0x9#4 ++ 0#2 ++ 0xFFFFFC#24 ++ 0b01#2, .jz (-16)),
    (0x9#4 ++ 1#2 ++ 0xFFFFFC#24 ++ 0b01#2, .jnz (-16)),
    (0x9#4 ++ 2#2 ++ 0xFFFFFC#24 ++ 0b01#2, .jneg (-16)),
    (0x9#4 ++ 3#2 ++ 0xFFFFFC#24 ++ 0b01#2, .jnneg (-16)),
    (0xD#4 ++ 0#2 ++ 0x000001#24 ++ 0b11#2, .printDec 4),
    (0xD#4 ++ 1#2 ++ 0x000001#24 ++ 0b11#2, .printHex 4),
    (0xD#4 ++ 2#2 ++ 0x000001#24 ++ 0b11#2, .printBin 4),
    (0xD#4 ++ 3#2 ++ 0x000001#24 ++ 0b11#2, .printOct 4)] = true := by decide

/-- A word as bytes: the first byte of the file is `w[7:0]` (R60); three bytes are no instruction. -/
theorem test_decode_bytes : decode [0x7B, 0x00, 0x00, 0xF0, 0xAA] = .ok (.push 0x7B, [0xAA]) ∧
    decode [0x7B, 0x00, 0x00] = .error .truncated ∧ encode (.goto (-4)) = [0xFC, 0xFF, 0xFF, 0x7F] := by decide

/-- The table's numbering of the bits; the bits above `nbits` are 0; what does not fit one word is no instruction. -/
theorem test_decode_table_word : decodeTableWord 32 0xF000007B = some (.push 0x7B) ∧
    decodeTableWord 8 0xF000007B = some (.exit 0x7B) ∧ decodeTableWord 40 0x1F000007B = none := by decide

/-- The table of R73 as data has the 74 rows of spec/opcode_table.json. -/
theorem test_opcode_table_length : opcodeTable.length = 74 := by decide

/-! ## One step of each instruction -/

/-- V10. -/
theorem test_exit_negative :
    shows (step (start 0 4096 [(0, 0x000000FE)])) 4 4096 (.exited (-2)) [] [] = true := by decide

/-- V13. -/
theorem test_exit_ignores_upper_bits :
    shows (step (start 0 4096 [(0, 0x00ABCD05)])) 4 4096 (.exited 5) [] [] = true := by decide

/-- V17. -/
theorem test_swap_below_sp :
    shows (step (start 0 4092 [(0, 0x01FFF000), (4088, 9), (4092, 7)])) 4 4092 .running [(4088, 7), (4092, 9)] [] = true := by decide

/-- V15. -/
theorem test_swap_out_of_bounds_does_nothing :
    shows (step (start 0 4092 [(0, 0x01000001), (4092, 0x11)])) 4 4092 .running [(4092, 0x11), (0, 0x01000001)] [] = true := by decide

/-- V22. -/
theorem test_input_pushes :
    shows (step (hosted 0 4096 [(0, 0x04000000)] [0x2A] [])) 4 4092 .running [(4092, 0x2A)] [.prompt, .inWord 0x2A] = true := by decide

/-- V24. -/
theorem test_input_full_stack :
    shows (step (hosted 0 0 [(0, 0x04000000)] [0x2A] [])) 4 0 (.halted (.memFault .stackOverflow (-4))) [(0, 0x04000000)] [.prompt, .inWord 0x2A] = true := by decide

/-- R230: a host that never answers is waited for. -/
theorem test_input_silent_host :
    faults (step ((start 0 4096 [(0, 0x04000000)]).setHost ⟨[], [[0x41]], false, 0⟩)) .hostSilent = true := by decide

/-- V30. -/
theorem test_stinput_packs_two_words :
    shows (step (hosted 0 4096 [(0, 0x05000010)] [] [[0x48, 0x45, 0x4C, 0x4C, 0x4F]])) 4 4088 .running [(4092, 0x00014F4C), (4088, 0x014C4548)] [.inLine [0x48, 0x45, 0x4C, 0x4C, 0x4F]] = true := by decide

/-- V36. -/
theorem test_stinput_without_room :
    shows (step (hosted 0 4 [(0, 0x05000010)] [] [[0x41, 0x42, 0x43, 0x44]])) 4 4 (.halted (.memFault .stackOverflow (-4))) [(0, 0x05000010)] [.inLine [0x41, 0x42, 0x43, 0x44]] = true := by decide

/-- V37. -/
theorem test_debug_reports_next_pc :
    shows (step (start 12 4088 [(12, 0x0F00002A)])) 16 4088 .running [] [.debug 42 16 4088] = true := by decide

/-- V38, V39: every reserved sub-opcode halts with its own number. -/
theorem test_reserved_misc_halts : [0x2, 0x3, 0x6, 0x7, 0x8, 0x9, 0xA, 0xB, 0xC, 0xD, 0xE].all (fun sub =>
    shows (step (start 0 4096 [(0, sub * 2 ^ 24 + 0x123456)])) 4 4096 (.halted (.illegalMisc (BitVec.ofNat 4 sub))) [] [])
      = true := by decide

/-- V41. -/
theorem test_pop_zero_is_one_word :
    shows (step (start 0 4084 [(0, 0x10000000), (4084, 1)])) 4 4088 .running [(4084, 1)] [] = true := by decide

/-- V47 at PC 4. -/
theorem test_pop_clamps :
    shows (step (start 4 0 [(4, 0x1FFFFFFF)])) 8 4096 .running [] [] = true := by decide

/-- V49. -/
theorem test_dup_reads_before_the_push :
    shows (step (start 0 4088 [(0, 0xB0000004), (4088, 1), (4092, 7)])) 4 4084 .running [(4084, 7), (4088, 1), (4092, 7)] [] = true := by decide

/-- V50. -/
theorem test_dup_empty_stack :
    shows (step (start 0 4096 [(0, 0xB0000000)])) 4 4096 (.halted (.memFault .badAddress (4096))) [] [] = true := by decide

/-- V55. -/
theorem test_push_zero_extends :
    shows (step (start 0 4096 [(0, 0xFFFFFFFF)])) 4 4092 .running [(4092, 0x0FFFFFFF)] [] = true := by decide

/-- V58. -/
theorem test_push_overflow :
    shows (step (start 0 3 [(0, 0xF0000001)])) 4 3 (.halted (.memFault .stackOverflow (-1))) [] [] = true := by decide

/-- V60. -/
theorem test_add_wraps :
    shows (step (start 0 4088 [(0, 0x20000000), (4088, 1), (4092, 0x7FFFFFFF)])) 4 4092 .running [(4092, 0x80000000)] [] = true := by decide

/-- V98. -/
theorem test_add_missing_left_operand :
    shows (step (start 0 4092 [(0, 0x20000000), (4092, 5)])) 4 4092 (.halted (.memFault .stackUnderflow 4096)) [(4092, 5)] [] = true := by decide

/-- V62. -/
theorem test_sub_left_minus_right :
    shows (step (start 0 4088 [(0, 0x21000000), (4088, 0xA), (4092, 3)])) 4 4092 .running [(4092, 0xFFFFFFF9)] [] = true := by decide

/-- V67. -/
theorem test_mul_low_word :
    shows (step (start 0 4088 [(0, 0x22000000), (4088, 0xFFFFFFFF), (4092, 0xFFFFFFFF)])) 4 4092 .running [(4092, 1)] [] = true := by decide

/-- V66. -/
theorem test_mul_overflow :
    shows (step (start 0 4088 [(0, 0x22000000), (4088, 0x10000), (4092, 0x10000)])) 4 4092 .running [(4092, 0)] [] = true := by decide

/-- V72. -/
theorem test_div_toward_zero :
    shows (step (start 0 4088 [(0, 0x23000000), (4088, 2), (4092, 0xFFFFFFF9)])) 4 4092 .running [(4092, 0xFFFFFFFD)] [] = true := by decide

/-- V75. -/
theorem test_div_overflow_wraps :
    shows (step (start 0 4088 [(0, 0x23000000), (4088, 0xFFFFFFFF), (4092, 0x80000000)])) 4 4092 .running [(4092, 0x80000000)] [] = true := by decide

/-- V79. -/
theorem test_mod_sign_of_dividend :
    shows (step (start 0 4088 [(0, 0x24000000), (4088, 0xFFFFFFFE), (4092, 7)])) 4 4092 .running [(4092, 1)] [] = true := by decide

/-- V76. -/
theorem test_mod_by_zero :
    shows (step (start 0 4088 [(0, 0x24000000), (4088, 0), (4092, 5)])) 4 4092 .running [(4092, 0)] [] = true := by decide

/-- V82. -/
theorem test_and :
    shows (step (start 0 4088 [(0, 0x25000000), (4088, 0xFF0), (4092, 0xFF00)])) 4 4092 .running [(4092, 0xF00)] [] = true := by decide

/-- V83. -/
theorem test_or :
    shows (step (start 0 4088 [(0, 0x26000000), (4088, 0xFFF), (4092, 0xFF00)])) 4 4092 .running [(4092, 0xFFFF)] [] = true := by decide

/-- V84. -/
theorem test_xor :
    shows (step (start 0 4088 [(0, 0x27000000), (4088, 0xFFF), (4092, 0xFF00)])) 4 4092 .running [(4092, 0xF0FF)] [] = true := by decide

/-- V89. -/
theorem test_shl_masks_the_amount :
    shows (step (start 0 4088 [(0, 0x28000000), (4088, 0xFFFFFFFF), (4092, 3)])) 4 4092 .running [(4092, 0x80000000)] [] = true := by decide

/-- V85. -/
theorem test_shl :
    shows (step (start 0 4088 [(0, 0x28000000), (4088, 4), (4092, 0x07FFFFFF)])) 4 4092 .running [(4092, 0x7FFFFFF0)] [] = true := by decide

/-- V92b. -/
theorem test_shr_zero_fill :
    shows (step (start 0 4088 [(0, 0x29000000), (4088, 0x24), (4092, 0xFFFFFFFF)])) 4 4092 .running [(4092, 0x0FFFFFFF)] [] = true := by decide

/-- V95. -/
theorem test_sar_sign_fill :
    shows (step (start 0 4088 [(0, 0x2A000000), (4088, 1), (4092, 0xFFFFFFF9)])) 4 4092 .running [(4092, 0xFFFFFFFC)] [] = true := by decide

/-- V96b. -/
theorem test_sar_amount_32 :
    shows (step (start 0 4088 [(0, 0x2A000000), (4088, 0x20), (4092, 0x80000000)])) 4 4092 .running [(4092, 0x80000000)] [] = true := by decide

/-- V-U table. -/
theorem test_neg :
    shows (step (start 0 4092 [(0, 0x30000000), (4092, 5)])) 4 4092 .running [(4092, 0xFFFFFFFB)] [] = true := by decide

/-- V-U1. -/
theorem test_neg_empty_stack :
    shows (step (start 0 4096 [(0, 0x30000000)])) 4 4096 (.halted (.memFault .stackUnderflow 4096)) [] [] = true := by decide

/-- V-U table. -/
theorem test_not :
    shows (step (start 0 4092 [(0, 0x31000000), (4092, 0xF)])) 4 4092 .running [(4092, 0xFFFFFFF0)] [] = true := by decide

/-- V99, V99b, V-U2: unrecognized sub-opcodes do not look at the stack. -/
theorem test_unrecognized_arithmetic : [0x2B, 0x2C, 0x2D, 0x2E, 0x2F, 0x32, 0x33, 0x34, 0x35, 0x36, 0x37, 0x38, 0x39,
    0x3A, 0x3B, 0x3C, 0x3D, 0x3E, 0x3F].all (fun m =>
      shows (step (start 0 4096 [(0, m * 2 ^ 24 + 0xFFFFFF)])) 4 4096 .running [] []) = true := by decide

/-- V140. -/
theorem test_prints_skips_the_flag :
    shows (step (start 0 4088 [(0, 0x40000000), (4088, 0x014C4548), (4092, 0x00014F4C)])) 4 4088 .running [] [.char 0x48, .char 0x45, .char 0x4C, .char 0x4C, .char 0x4F] = true := by decide

/-- V145. -/
theorem test_prints_negative_address :
    shows (step (start 0 4092 [(0, 0x4FFFE000), (4092, 0x41)])) 4 4092 (.halted (.memFault .badAddress (-4100))) [] [] = true := by decide

/-- V100. -/
theorem test_call_pushes_next_pc :
    shows (step (start 8 4096 [(8, 0x50000010)])) 24 4092 .running [(4092, 12)] [] = true := by decide

/-- V103. -/
theorem test_call_keeps_its_push :
    shows (step (start 8 4096 [(8, 0x5FFFFF9C)])) 12 4092 (.halted (.jumpFault (-92))) [(4092, 12)] [.jumpFaultDiag (-92)] = true := by decide

/-- V106. -/
theorem test_ret_drops_locals :
    shows (step (start 40 4084 [(40, 0x60000008), (4084, 0x11), (4088, 0x22), (4092, 0x0C)])) 12 4096 .running [] [] = true := by decide

/-- V107c. -/
theorem test_ret_bad_target :
    shows (step (start 40 4092 [(40, 0x60000000), (4092, 0x1000)])) 44 4092 (.halted (.jumpFault (4096))) [] [.jumpFaultDiag (4096)] = true := by decide

/-- V112. -/
theorem test_goto_last_word :
    shows (step (start 12 4096 [(12, 0x70000FF0)])) 4092 4096 .running [] [] = true := by decide

/-- V113. -/
theorem test_goto_out_of_range :
    shows (step (start 12 4096 [(12, 0x70000FF4)])) 16 4096 (.halted (.jumpFault (4096))) [] [.jumpFaultDiag (4096)] = true := by decide

/-- V120: which of JEQ, JNE, JLT, JGT, JLE, JGE and the two undefined codes are taken, for one row of the table. -/
def takenRow (l r : Nat) : List Bool := (List.range 8).map fun c =>
  shows (step (start 8 4088 [(8, 0x80000010 + c * 0x02000000), (4088, r), (4092, l)])) 24 4088 .running [(4088, r), (4092, l)] []

/-- V120: the six rows. -/
theorem test_binary_jumps_taken :
    takenRow 5 5 = [true, false, false, false, true, true, false, false] ∧
    takenRow 3 5 = [false, true, true, false, true, false, false, false] ∧
    takenRow 5 3 = [false, true, false, true, false, true, false, false] ∧
    takenRow 0xFFFFFFFF 0 = [false, true, true, false, true, false, false, false] ∧
    takenRow 0 0xFFFFFFFF = [false, true, false, true, false, true, false, false] ∧
    takenRow 0x80000000 0x7FFFFFFF = [false, true, true, false, true, false, false, false] := by decide

/-- V130: which of JZ, JNZ, JNEG, JNNEG are taken, for one row of the table. -/
def takenUnary (x : Nat) : List Bool := (List.range 4).map fun c =>
  shows (step (start 4 4092 [(4, 0x9000000C + c * 0x04000000), (4092, x)])) 16 4092 .running [(4092, x)] []

/-- V130: the five rows. -/
theorem test_unary_jumps_taken :
    takenUnary 0 = [true, false, false, true] ∧
    takenUnary 3 = [false, true, false, true] ∧
    takenUnary 0x80000000 = [false, true, true, false] ∧
    takenUnary 0xFFFFFFFF = [false, true, true, false] ∧
    takenUnary 0x7FFFFFFF = [false, true, false, true] := by decide

/-- V123. -/
theorem test_jump_left_operand_missing :
    shows (step (start 8 4092 [(8, 0x86000010), (4092, 0xFFFFFFFF)])) 24 4092 .running [] [] = true := by decide

/-- V127. -/
theorem test_jump_untaken_target_unchecked :
    shows (step (start 8 4088 [(8, 0x83FFFF9C), (4088, 1), (4092, 1)])) 12 4088 .running [] [] = true := by decide

/-- V125. -/
theorem test_undefined_condition_still_peeks :
    shows (step (start 8 4096 [(8, 0x8C000010)])) 12 4096 (.halted (.memFault .stackUnderflow 4096)) [] [] = true := by decide

/-- V133. -/
theorem test_jz_bad_target :
    shows (step (start 4 4092 [(4, 0x93FFFFF8)])) 8 4092 (.halted (.jumpFault (-4))) [] [.jumpFaultDiag (-4)] = true := by decide

/-- V1, V2: the unassigned opcodes. -/
theorem test_unassigned_opcodes : shows (step (start 8 4096 [(8, 0xA0000000)])) 12 4096 .running [] [] = true ∧
    shows (step (start 8 4096 [(8, 0xCFFFFFFF)])) 12 4096 .running [] [] = true := by decide

/-- V154. -/
theorem test_print_dec :
    shows (step (start 0 4092 [(0, 0xD0000000), (4092, 0xFFFFFFFF)])) 4 4092 .running [] [.num .dec 0xFFFFFFFF] = true := by decide

/-- V157. -/
theorem test_print_dec_bad_address :
    shows (step (start 0 4092 [(0, 0xD3FFF000), (4092, 1)])) 4 4092 (.halted (.memFault .badAddress (-4))) [] [] = true := by decide

/-- V155. -/
theorem test_print_hex :
    shows (step (start 0 4088 [(0, 0xD4000004), (4088, 1), (4092, 0xBEEF)])) 4 4088 .running [] [.num .hex 0xBEEF] = true := by decide

/-- V152. -/
theorem test_print_bin :
    shows (step (start 0 4092 [(0, 0xD8000000), (4092, 0x7B)])) 4 4092 .running [] [.num .bin 0x7B] = true := by decide

/-- V153. -/
theorem test_print_oct :
    shows (step (start 0 4092 [(0, 0xDC000000), (4092, 0x7B)])) 4 4092 .running [] [.num .oct 0x7B] = true := by decide

/-- V154: DEC shows the signed view. -/
theorem test_print_dec_shows_signed : NumFmt.dec.shown 0xFFFFFFFF = -1 ∧ NumFmt.hex.shown 0xFFFFFFFF = 4294967295 := by decide

/-- V160. -/
theorem test_dump_top_first :
    shows (step (start 0 4088 [(0, 0xE0000000), (4088, 2), (4092, 1)])) 4 4088 .running [] [.dumpLine 4088 2, .dumpLine 4092 1] = true := by decide

/-- V162. -/
theorem test_dump_misaligned :
    shows (step (start 0 4090 [(0, 0xE0000000), (4088, 0xAAAA0002), (4092, 1)])) 4 4090 .running [] [.dumpLine 4090 0x0001AAAA] = true := by decide

/-! ## Fetch, load, reset -/

/-- V7. -/
theorem test_fetch_misaligned :
    shows (step (start 4090 4000 [(4090, 0xF0000001)])) 4094 3996 .running [(3996, 1)] [] = true := by decide

/-- V5. -/
theorem test_fetch_bound :
    shows (step (start 4094 4096 [])) 4094 4096 (.halted (.fetchBound 4094)) [] [] = true := by decide

/-- R90, R212: no step from a terminal state. -/
theorem test_terminal : faults (step ((start 0 4096 []).setStatus (.exited 0))) .notRunning = true ∧
    faults (step ((start 0 4096 []).setStatus (.halted (.fetchBound 4096)))) .notRunning = true := by decide

/-- P5, last step: the fetch sees the word a SWAP stored over program memory. -/
theorem test_fetch_sees_a_swap : (match step (start 4 4092 [(4, 0x01000C03), (8, 1), (4092, 0x2A)]) with
    | .next t => shows (step t) 12 4092 (.exited 42) [(4092, 1)] []
    | .fault _ => false
    | .refused _ => false) = true := by decide

/-- V170, V171, V172, V175: the loader's outcomes, and the first step of what it loads. -/
theorem test_loader : (match Loader.load [0xDE, 0xAD, 0xBE, 0xEF, 0x7B, 0x00, 0x00] with
    | .ok s => shows (step s) 4 4096 (.exited 123) [(0, 0x7B)] []
    | .error _ => false) = true ∧
    Loader.load [0xDE, 0xAD, 0xBE, 0xEF] = .ok State.reset ∧
    Loader.load [0xEF, 0xBE, 0xAD, 0xDE] = .error .invalidFormat ∧
    Loader.load [0xDE, 0xAD] = .error .invalidFormat := by decide

/-- V54 as the first instruction after reset. -/
theorem test_with_fetch_word :
    shows (step (State.reset.withFetchWord 32 0xF000007B)) 4 4092 .running [(4092, 0x7B), (0, 0xF000007B)] [] = true := by decide

/-- A write keeps the canonical form: rising addresses, and 0x00 removes the entry. -/
theorem test_memory_canonical : (Memory.write [] 5 1).write 3 2 = [(3, 2), (5, 1)] ∧
    Memory.write [(3, 2), (5, 1)] 3 0 = [(5, 1)] ∧ (Memory.writeWord [] 4092 0x00014F4C).wf := by decide

/-! ## Witnesses: the hypotheses of each obligation can be met -/

theorem witness_DecodeEncodeRoundTrip :
    (Instr.swap (-8192) 8188).wf = true ∧ (Instr.exit (-128)).wf = true ∧ (Instr.call (2 ^ 27 - 4)).wf = true ∧
    (Instr.push (2 ^ 28 - 1)).wf = true := by decide

/-- A word with ignored bits set, one without any, and two words that differ in ignored bits only. -/
theorem witness_IgnoredBitsAreTheOnlyOnesLost :
    ignoredField (decodeWord 0x50000003) = some (1, 0) ∧ ignoredField (decodeWord 0x01FFF002) = none ∧
    (0x50000003#32).toNat / 2 ^ 2 = (0x50000000#32).toNat / 2 ^ 2 ∧ (0x50000003#32).toNat % 2 ^ 0 = (0x50000000#32).toNat % 2 ^ 0 := by decide

theorem witness_WordWriteIsLittleEndianAndLocal :
    (3 < 4) ∧ (4091 < 4092 ∨ 4092 + 4 ≤ 4091) ∧ (4096 < 4092 ∨ 4092 + 4 ≤ 4096) := by decide

theorem witness_LoaderBuildsTheImage_marker :
    4 ≤ ([0xEF, 0xBE, 0xAD, 0xDE] : List Byte).length ∧ ([0xEF, 0xBE, 0xAD, 0xDE] : List Byte).take 4 ≠ [0xDE, 0xAD, 0xBE, 0xEF] := by decide

theorem witness_LoaderBuildsTheImage_tooLarge :
    ∃ file body : List Byte, file = [0xDE, 0xAD, 0xBE, 0xEF] ++ body ∧ Config.N < body.length := 
  ⟨_, List.replicate 4097 0x00, rfl, by rw [List.length_replicate, Config.N_eq]; decide⟩

theorem witness_LoaderBuildsTheImage_full :
    ∃ file body : List Byte, file = [0xDE, 0xAD, 0xBE, 0xEF] ++ body ∧ body.length ≤ Config.N := 
  ⟨_, List.replicate 4096 0x00, rfl, by rw [List.length_replicate, Config.N_eq]⟩

/-- The last word of memory is fetched. -/
theorem witness_StepRunsTheDecodedInstruction :
    let s := start 4092 4096 [(4092, 0x20000000)]
    s.status = .running ∧ s.pc.toNat + 4 ≤ Config.N ∧
      decode [s.mem.read s.pc.toNat, s.mem.read (s.pc.toNat + 1), s.mem.read (s.pc.toNat + 2), s.mem.read (s.pc.toNat + 3)]
        = .ok (.add, []) ∧ Instr.add.wf = true := by decide

theorem witness_FetchPastMemoryHalts :
    (start 4093 4096 []).status = .running ∧ (start 4093 4096 []).pc.toNat + 4 > Config.N := by decide

theorem witness_TerminalStatesTakeNoStep :
    ((start 0 4096 []).setStatus (.exited 0)).status ≠ .running ∧
    ((start 0 4096 []).setStatus (.halted (.illegalMisc 2))).status ≠ .running := by decide

theorem witness_FetchSeesTheLatestStore :
    (start 4091 4096 []).status = .running ∧ 4091 + 4 ≤ Config.N ∧ (start 4091 4096 []).pc.toNat = 4091 := by decide

/-- Each clause at its boundary. -/
theorem witness_PushPrimitive :
    (start 4 3 []).sp.toNat < 4 ∧ 4 ≤ (start 4 4 []).sp.toNat := by decide

theorem witness_PopUndoesPush :
    4 ≤ (start 4 4 []).sp.toNat := by decide

/-- V17 for the exchange, V15 for the address out of bounds. -/
theorem witness_SwapExchangesTwoWords :
    ((4092 : Nat) : Int) = (start 4 4092 []).sp.toNat + 4 * (0 : BitVec 12).toInt ∧
    ((4088 : Nat) : Int) = (start 4 4092 []).sp.toNat + 4 * (0xFFF : BitVec 12).toInt ∧ 4092 + 4 ≤ Config.N ∧ 4088 + 4 ≤ Config.N ∧
    ¬ inBounds ((start 4 4092 []).sp.toNat + 4 * (1 : BitVec 12).toInt) := by decide

theorem witness_InputPushesTheHostsWord :
    ((hosted 4 4 [] [0x2A] [[0x48, 0x45, 0x4C, 0x4C, 0x4F]]).host.nextWord = some (0x2A, ⟨[], [[0x48, 0x45, 0x4C, 0x4C, 0x4F]], true, 0⟩) ∧
      4 ≤ (hosted 4 4 [] [0x2A] [[0x48, 0x45, 0x4C, 0x4C, 0x4F]]).sp.toNat) ∧
    ((hosted 4 3 [] [0x2A] [[0x48, 0x45, 0x4C, 0x4C, 0x4F]]).host.nextWord = some (0x2A, ⟨[], [[0x48, 0x45, 0x4C, 0x4C, 0x4F]], true, 0⟩) ∧
      (hosted 4 3 [] [0x2A] [[0x48, 0x45, 0x4C, 0x4C, 0x4F]]).sp.toNat < 4) := by decide

/-- A free answer meets the hypothesis too, whatever its value. -/
theorem witness_InputPushesTheHostsWord_free :
    (start 4 4096 []).host.nextWord = some (Config.hostWord 0, ⟨[], [], true, 1⟩) := rfl

/-- V30 at the least SP with room: two chunks. -/
theorem witness_StinputPacksTheHostsLine :
    let line : List Byte := [0x48, 0x45, 0x4C, 0x4C, 0x4F]
    (hosted 4 8 [] [0x2A] [[0x48, 0x45, 0x4C, 0x4C, 0x4F]]).host.nextLine = some (line, ⟨[0x2A], [], true, 0⟩) ∧
      4 * ceilThird (line.take 16).length ≤ (hosted 4 8 [] [0x2A] [[0x48, 0x45, 0x4C, 0x4C, 0x4F]]).sp.toNat ∧ 1 < ceilThird (line.take 16).length ∧ 2 < 3 := by decide

theorem witness_StinputWithoutRoomPushesNothing :
    let line : List Byte := [0x48, 0x45, 0x4C, 0x4C, 0x4F]
    (hosted 4 7 [] [0x2A] [[0x48, 0x45, 0x4C, 0x4C, 0x4F]]).host.nextLine = some (line, ⟨[0x2A], [], true, 0⟩) ∧
      (hosted 4 7 [] [0x2A] [[0x48, 0x45, 0x4C, 0x4C, 0x4F]]).sp.toNat < 4 * ceilThird (line.take 16).length := by decide

/-- P3. -/
theorem witness_PrintsReadsBackWhatStinputPacked :
    let line : List Byte := [0x48, 0x45, 0x4C, 0x4C, 0x4F]
    (hosted 4 4096 [] [0x2A] [[0x48, 0x45, 0x4C, 0x4C, 0x4F]]).host.nextLine = some (line, ⟨[0x2A], [], true, 0⟩) ∧ (hosted 4 4096 [] [0x2A] [[0x48, 0x45, 0x4C, 0x4C, 0x4F]]).sp.toNat ≤ Config.N ∧
      4 * ceilThird (line.take 16).length ≤ (hosted 4 4096 [] [0x2A] [[0x48, 0x45, 0x4C, 0x4C, 0x4F]]).sp.toNat ∧ line.take 16 ≠ [] ∧ ∀ b ∈ line.take 16, 2 ≤ b.toNat := by decide

theorem witness_InputBlocksExactlyWithoutAnswer :
    (⟨[], [], false, 0⟩ : HostPort).nextWord = none ∧ (⟨[], [], false, 0⟩ : HostPort).nextLine = none ∧
    (⟨[7], [], false, 0⟩ : HostPort).nextWord ≠ none ∧ (⟨[], [[]], false, 0⟩ : HostPort).nextLine ≠ none := by decide

theorem witness_SettledAnswersAreUsedFirst :
    (⟨[7, 8], [], false, 0⟩ : HostPort).words = 7 :: [8] ∧ (⟨[], [[], [1]], false, 0⟩ : HostPort).lines = [] :: [[1]] ∧
    (⟨[], [], true, 0⟩ : HostPort).answers = true ∧
    ((⟨[], [], false, 0⟩ : HostPort).answers = false ∧ (⟨[], [], false, 0⟩ : HostPort).words = [] ∧
      (⟨[], [], false, 0⟩ : HostPort).lines = []) := by decide

theorem witness_ReservedMiscHalts :
    0x2#4 ∈ [0x2#4, 0x3#4, 0x6#4, 0x7#4, 0x8#4, 0x9#4, 0xA#4, 0xB#4, 0xC#4, 0xD#4, 0xE#4] ∧
    0xE#4 ∈ [0x2#4, 0x3#4, 0x6#4, 0x7#4, 0x8#4, 0x9#4, 0xA#4, 0xB#4, 0xC#4, 0xD#4, 0xE#4] := by decide

/-- Each clause: the last word of memory, V52, V50, and a negative address. -/
theorem witness_DupPushesTheAddressedWord :
    (((4092 : Nat) : Int) = (start 4 4 []).sp.toNat + 4 * (1022 : BitVec 26).toInt ∧ 4092 + 4 ≤ Config.N ∧ 4 ≤ (start 4 4 []).sp.toNat) ∧
    (((0 : Nat) : Int) = (start 4 0 []).sp.toNat + 4 * (0 : BitVec 26).toInt ∧ 0 + 4 ≤ Config.N ∧ (start 4 0 []).sp.toNat < 4) ∧
    ¬ inBounds ((start 4 4096 []).sp.toNat + 4 * (0 : BitVec 26).toInt) ∧
    ¬ inBounds ((start 4 0 []).sp.toNat + 4 * (0x3FFFFFF : BitVec 26).toInt) := by decide

theorem witness_PushPushesItsPattern :
    4 ≤ (start 4 4 []).sp.toNat ∧ (start 4 3 []).sp.toNat < 4 := by decide

/-- V97, V98. -/
theorem witness_BinaryInstructionsTakeTwoWords :
    (Instr.add, 0x0) ∈ binaryInstrs ∧ (Instr.sar, 0xA) ∈ binaryInstrs ∧ (start 4 4096 []).sp.toNat + 4 > Config.N ∧
    ((start 4 4092 []).sp.toNat + 4 ≤ Config.N ∧ (start 4 4092 []).sp.toNat + 8 > Config.N) := by decide

/-- The hypothesis of every binary result (AddSubMulWrap, DivTruncatesAndNeverFaults, ModTakesTheDividendsSign, AndOrXorAreBitwise,
ShiftsMaskTheirAmount) at its boundary. -/
theorem witness_ComputesBinary :
    (start 4 4088 []).sp.toNat + 8 ≤ Config.N := by decide

/-- V75, V72, V70. -/
theorem witness_DivTruncatesAndNeverFaults :
    let l : Word := 0x80000000
    let r : Word := 0xFFFFFFFF
    (l.toInt = -2 ^ 31 ∧ r.toInt = -1 ∧ r ≠ 0) ∧ ((2 : Word) ≠ 0 ∧ ¬ (l.toInt = -2 ^ 31 ∧ (2 : Word).toInt = -1)) ∧ (0 : Word) = 0 := by decide

/-- V76 to V79. -/
theorem witness_ModTakesTheDividendsSign :
    (2 : Word) ≠ 0 ∧ 0 ≤ (7 : Word).toInt ∧ (0xFFFFFFF9 : Word).toInt < 0 ∧ (0 : Word) = 0 := by decide

theorem witness_AndOrXorAreBitwise :
    31 < 32 := by decide

theorem witness_UnrecognizedArithmeticDoesNothing :
    (0x2#4 = 0x2#4 ∧ 0xB ≤ (0xB#4).toNat) ∧ (0x3#4 = 0x3#4 ∧ 0x2 ≤ (0x2#4).toNat) ∧ 0x2 ≤ (0xF#4).toNat := by decide

/-- The hypotheses of NegNegatesTheTop and NotComplementsTheTop. -/
theorem witness_NegAndNot :
    (start 4 4092 []).sp.toNat + 4 ≤ Config.N ∧ (start 4 4093 []).sp.toNat + 4 > Config.N := by decide

theorem witness_CallPushesThenRedirects :
    4 ≤ (start 4 4 []).sp.toNat ∧ (start 4 3 []).sp.toNat < 4 := by decide

/-- Each clause at its boundary: V107c, V106. -/
theorem witness_RetPopsThePc :
    (4093 = (start 4 4093 []).sp.toNat + (0 : BitVec 28).toNat ∧ 4093 + 4 > Config.N) ∧
    (let s := start 4 4092 [(4092, 4096)]
     4092 = s.sp.toNat + (0 : BitVec 28).toNat ∧ 4092 + 4 ≤ Config.N ∧ Config.N ≤ (s.mem.readWord 4092).toNat) ∧
    (let s := start 4 4084 [(4092, 4095)]
     4092 = s.sp.toNat + (8 : BitVec 28).toNat ∧ 4092 + 4 ≤ Config.N ∧ (s.mem.readWord 4092).toNat < Config.N) := by decide

theorem witness_RetReturnsAfterTheCall :
    let s := start 8 4 []
    4 ≤ s.sp.toNat ∧ s.sp.toNat ≤ Config.N ∧ s.pc.toNat < Config.N ∧ 0 ≤ s.pc0 + (-4) ∧ s.pc0 + (-4) < Config.N := by decide

/-- Each clause: an empty stack, equal words, and a missing left operand that reads 0 against 5 (V122). -/
theorem witness_EqualityJumps :
    let s := start 4 4088 [(4088, 5), (4092, 5)]
    let u := start 4 4092 [(4092, 5)]
    (start 4 4093 []).sp.toNat + 4 > Config.N ∧ (s.sp.toNat + 4 ≤ Config.N ∧ leftOperand s = s.mem.readWord s.sp.toNat) ∧
      (u.sp.toNat + 4 ≤ Config.N ∧ leftOperand u ≠ u.mem.readWord u.sp.toNat) := by decide

/-- Each clause: `s` meets the conditions of JLT and JLE and fails those of JGT and JGE; `u` (V123) the other way round. -/
theorem witness_OrderJumpsAreSigned :
    let s := start 4 4088 [(4088, 0), (4092, 0xFFFFFFFF)]
    let u := start 4 4092 [(4092, 0xFFFFFFFF)]
    (start 4 4093 []).sp.toNat + 4 > Config.N ∧
      (s.sp.toNat + 4 ≤ Config.N ∧ (leftOperand s).toInt < (s.mem.readWord s.sp.toNat).toInt) ∧
      (u.sp.toNat + 4 ≤ Config.N ∧ (leftOperand u).toInt > (u.mem.readWord u.sp.toNat).toInt) := by decide

theorem witness_UndefinedConditionsNeverJump :
    6 ≤ (6#3).toNat ∧ 6 ≤ (7#3).toNat ∧ (start 4 4093 []).sp.toNat + 4 > Config.N ∧ (start 4 4092 []).sp.toNat + 4 ≤ Config.N := by decide

/-- Each clause: `z` meets the conditions of JZ and JNNEG and fails those of JNZ and JNEG; `n` the other way round. -/
theorem witness_UnaryJumps :
    let z := start 4 4092 [(4092, 0)]
    let n := start 4 4092 [(4092, 0x80000000)]
    (start 4 4093 []).sp.toNat + 4 > Config.N ∧ z.sp.toNat + 4 ≤ Config.N ∧ n.sp.toNat + 4 ≤ Config.N ∧
      ((z.mem.readWord z.sp.toNat).toNat = 0 ∧ (z.mem.readWord z.sp.toNat).getLsbD 31 = false) ∧
      ((n.mem.readWord n.sp.toNat).toNat ≠ 0 ∧ (n.mem.readWord n.sp.toNat).getLsbD 31 = true) := by decide

theorem witness_UnassignedOpcodesDoNothing :
    (0xA#4 = 0xA#4 ∨ 0xA#4 = 0xC#4) ∧ (0xC#4 = 0xA#4 ∨ 0xC#4 = 0xC#4) := by decide

/-- V141 (an address above memory prints nothing), address 0, and a negative address. -/
theorem witness_PrintsEmitsTheString :
    ((4096 : Nat) : Int) = (start 4 4092 []).sp.toNat + 4 * (1 : BitVec 26).toInt ∧
    ((0 : Nat) : Int) = (start 4 4 []).sp.toNat + 4 * (0x3FFFFFF : BitVec 26).toInt ∧
    (((start 4 0 []).sp.toNat : Int) + 4 * (0x3FFFFFF : BitVec 26).toInt < 0) := by decide

theorem witness_PrintNumberEmitsTheWord :
    (((4092 : Nat) : Int) = (start 4 4092 []).sp.toNat + 4 * (0 : BitVec 24).toInt ∧ 4092 + 4 ≤ Config.N) ∧
    ¬ inBounds ((start 4 4093 []).sp.toNat + 4 * (0 : BitVec 24).toInt) ∧
    ¬ inBounds ((start 4 0 []).sp.toNat + 4 * (0xFFFFFF : BitVec 24).toInt) := by decide

/-- A legal state with the given word at PC, halfway through memory. -/
def legal (w : Nat) : State := start 2048 4092 [(2048, w), (4092, 7)]

theorem witness_StepKeepsTheInvariant :
    (legal 0xF0000001).Inv ∧ shows (step (legal 0xF0000001)) 2052 4088 .running [(4088, 1)] [] = true := by decide

/-- A loaded program reaches a state after one step. -/
theorem witness_RunsOfEveryProgramStayLegal :
    Loader.load [0xDE, 0xAD, 0xBE, 0xEF, 0x00, 0x00, 0x00, 0xA0] = .ok (State.loaded [0x00, 0x00, 0x00, 0xA0]) ∧
    (State.loaded [0x00, 0x00, 0x00, 0xA0]).Reaches ((State.loaded [0x00, 0x00, 0x00, 0xA0]).setPc 4) :=
  ⟨by decide, .single (show step _ = _ from rfl)⟩

/-- A halt of each kind: the pre-check, an instruction with nothing changed, and CALL with its push kept (V105). -/
theorem witness_HaltsArePrecise :
    ((start 4093 4096 []).status = .running ∧ shows (step (start 4093 4096 [])) 4093 4096 (.halted (.fetchBound 4093)) [] [] = true) ∧
    ((legal 0x02000000).status = .running ∧ shows (step (legal 0x02000000)) 2052 4092 (.halted (.illegalMisc 2)) [] [] = true) ∧
    ((legal 0x57FFFFFC).status = .running ∧ shows (step (legal 0x57FFFFFC)) 2052 4088 (.halted (.jumpFault 134219772)) [(4088, 2052)]
      [.jumpFaultDiag 134219772] = true) := by decide

/-- EXIT, and an instruction that is not. -/
theorem witness_OnlyExitEndsWell :
    (legal 0x000000FE).status = .running ∧ shows (step (legal 0x000000FE)) 2052 4092 (.exited (-2)) [] [] = true ∧
    shows (step (legal 0xA0000000)) 2052 4092 .running [] [] = true := by decide

/-- Each clause at its boundary; the first needs no word, so every state meets it, the empty stack too. -/
theorem witness_LenientInstructionsNeverHalt :
    (Instr.dump ∈ [Instr.nopA, .nopC, .dump] ∧ Instr.arith1UnrecognizedF ∈ unrecognizedInstrs) ∧
    ((start 4 4092 []).sp.toNat + 4 ≤ Config.N ∧ Instr.jbUndefined7 ∈ [Instr.neg, .not, .jbUndefined6, .jbUndefined7]) ∧
    ((start 4 4088 []).sp.toNat + 8 ≤ Config.N ∧ (Instr.sar, 0xA) ∈ binaryInstrs) ∧
    ((0 : Int) ≤ (start 4 0 []).sp.toNat + 0 ∧ (0 : Int) ≤ (start 4 4096 []).sp.toNat + (-4096)) ∧
    (let s := start 4 4092 [(4092, 7)]
     s.sp.toNat + 4 ≤ Config.N ∧ s.sp.toNat + 8 > Config.N ∧ 0 ≤ s.pc0 + 0 ∧ s.pc0 + 4092 < Config.N) := by decide

/-- R208 on the empty stack: POP 0, SWAP 0, 0, DUMP, DEBUG 1, PRINTS 0, the no-ops of 0xA and 0xC. -/
theorem test_lenient_on_the_empty_stack : [0x10000000, 0x01000000, 0xE0000000, 0x40000000, 0xA0000000, 0xC0000000].all (fun w =>
    shows (step (start 0 4096 [(0, w)])) 4 4096 .running [] []) = true ∧
    shows (step (start 0 4096 [(0, 0x0F000001)])) 4 4096 .running [] [.debug 1 4 4096] = true := by decide

/-- The hypothesis of EventsAreNeverTakenBack and of StepsDoNotReadTheTrace: a step that emits. -/
theorem witness_EventsAreNeverTakenBack :
    shows (step (legal 0xD0000000)) 2052 4092 .running [] [.num .dec 7] = true := by decide

/-- V24: the events of one step lie on the ports that R26's table gives them. -/
theorem test_port_traces : (match step (hosted 0 0 [(0, 0x04000000)] [0x2A] []) with
    | .next t => decide (t.portTrace .out = [.prompt] ∧ t.portTrace .diag = [] ∧ t.portTrace .input = [.inWord 0x2A])
    | .fault _ => false
    | .refused _ => false) = true := by decide

/-- A GOTO that is taken. -/
theorem witness_PcStaysAlignedUnlessRet :
    (legal 0x70000008).pc.toNat % 4 = 0 ∧ (∀ n, decodeWord (legal 0x70000008).fetchedWord ≠ .ret n) ∧
    shows (step (legal 0x70000008)) 2056 4092 .running [] [] = true := 
  ⟨by decide, fun n => by rw [show decodeWord (legal 0x70000008).fetchedWord = .goto 8 by decide]; exact Instr.noConfusion, by decide⟩

/-- A POP 4. -/
theorem witness_SpStaysAlignedUnlessOddCount :
    (legal 0x10000004).sp.toNat % 4 = 0 ∧
    (∀ n, decodeWord (legal 0x10000004).fetchedWord = .pop n ∨ decodeWord (legal 0x10000004).fetchedWord = .ret n → n % 4 = 0) ∧
    shows (step (legal 0x10000004)) 2052 4096 .running [] [] = true := by
  refine ⟨by decide, fun n hn => ?_, by decide⟩
  rw [show decodeWord (legal 0x10000004).fetchedWord = .pop 4 by decide] at hn
  rcases hn with hn | hn
  · rw [← Instr.pop.inj hn]
  · exact Instr.noConfusion hn

end Sys2Proof.Tests
end

section
/-! ## The decoder answers well-formed instructions (R64 to R70) -/

namespace Sys2Proof

theorem offsetFits_iff (k : Nat) (off : Int) :
    offsetFits k off = true ↔ off % 4 = 0 ∧ -(2 ^ k) ≤ off ∧ off ≤ 2 ^ k - 4 := by
  simp [offsetFits, and_assoc]

/-- The range of a sign-extended field (R7). -/
theorem sext_range {k f : Nat} (hk : 0 < k) (hf : f < 2 ^ k) :
    -(2 ^ (k - 1)) ≤ sext k f ∧ sext k f < 2 ^ (k - 1) := by
  obtain ⟨n, rfl⟩ : ∃ n, k = n + 1 := ⟨k - 1, by omega⟩
  have hp : (2 : Int) ^ (n + 1) = 2 * 2 ^ n := by ring
  have hp' : (2 : Nat) ^ (n + 1) = 2 * 2 ^ n := by ring
  have hc : ((2 ^ n : Nat) : Int) = 2 ^ n := by norm_cast
  simp only [sext, Nat.add_sub_cancel]
  split_ifs <;> omega

/-- An offset field of `k - 1` bits gives an offset that fits (R64 to R67). -/
theorem offsetField_fits (w : Word) (hi lo k : Nat) (hk : hi - lo + 2 = k) :
    offsetFits k (offsetField w hi lo) = true := by
  subst hk
  have h := sext_range (Nat.succ_pos (hi - lo)) (bits_lt w hi lo)
  have hp : (2 : Int) ^ (hi - lo + 2) = 4 * 2 ^ (hi - lo) := by ring
  simp only [Nat.succ_eq_add_one, Nat.add_sub_cancel] at h
  rw [offsetFits_iff, offsetField]
  omega

/-- A table whose entries read well-formed instructions reads one at every selector. -/
theorem get_wf {n : Nat} {table : Vector (Word → Instr) n} {w : Word} (h : ∀ f ∈ table, (f w).wf = true) (k : Fin n) :
    (table.get k w).wf = true :=
  h _ (by rw [Vector.get_eq_getElem]; exact Vector.getElem_mem _)

theorem miscTable_wf (w : Word) : ∀ f ∈ miscTable, (f w).wf = true := by
  have hcode := sext_range (k := 8) (by decide) (bits_lt w 7 0)
  have himm := bits_lt w 23 0
  have hA := offsetField_fits w 23 12 13 rfl
  have hB := offsetField_fits w 11 0 13 rfl
  norm_num at hcode himm
  simp [miscTable, Instr.wf, *]
  omega

theorem binaryTable_wf (w : Word) : ∀ f ∈ binaryTable, (f w).wf = true := by simp [binaryTable, Instr.wf]

theorem unaryTable_wf (w : Word) : ∀ f ∈ unaryTable, (f w).wf = true := by simp [unaryTable, Instr.wf]

theorem binaryJumpTable_wf (w : Word) : ∀ f ∈ binaryJumpTable, (f w).wf = true := by
  simp [binaryJumpTable, Instr.wf, offsetField_fits]

theorem unaryJumpTable_wf (w : Word) : ∀ f ∈ unaryJumpTable, (f w).wf = true := by
  simp [unaryJumpTable, Instr.wf, offsetField_fits]

theorem printTable_wf (w : Word) : ∀ f ∈ printTable, (f w).wf = true := by
  simp [printTable, Instr.wf, offsetField_fits]

/-- One entry of the opcode map after the other, in the order of R73. -/
theorem opcodeMap_wf (w : Word) : ∀ f ∈ opcodeMap, (f w).wf = true := by
  have hcount : bits w 27 0 < 2 ^ 28 := bits_lt w 27 0
  simp only [opcodeMap, Vector.mem_mk, List.mem_toArray, List.forall_mem_cons]
  exact ⟨get_wf (miscTable_wf w) _, decide_eq_true hcount, get_wf (binaryTable_wf w) _, get_wf (unaryTable_wf w) _,
    offsetField_fits w 27 2 27 rfl, offsetField_fits w 27 2 27 rfl, decide_eq_true hcount, offsetField_fits w 27 2 27 rfl,
    get_wf (binaryJumpTable_wf w) _, get_wf (unaryJumpTable_wf w) _, rfl, offsetField_fits w 27 2 27 rfl, rfl,
    get_wf (printTable_wf w) _, rfl, decide_eq_true hcount, by simp⟩

/-- What the decoder reads is well formed. -/
theorem decodeWord_wf (w : Word) : (decodeWord w).wf = true := get_wf (opcodeMap_wf w) _

end Sys2Proof
end

section
/-! ## The shared operations behind the instructions: 74 rows, 20 meanings -/

namespace Sys2Proof.Machine

/-- The operation an instruction runs, with the operands that its meaning takes: the rows of one family share one. -/
inductive Operation where
  | exit (code : Int)
  | swap (offA offB : Int)
  | input
  | stinput (max : Nat)
  | reserved (sub : BitVec 4)
  | debug (imm24 : Nat)
  | pop (count : Nat)
  | binary (f : Word → Word → Word)
  | unary (g : Word → Word)
  | nop
  | prints (off : Int)
  | call (off : Int)
  | ret (count : Nat)
  | goto (off : Int)
  | jumpOnTwo (cond : Word → Word → Bool) (off : Int)
  | jumpOnOne (cond : Word → Bool) (off : Int)
  | dup (off : Int)
  | printNum (fmt : NumFmt) (off : Int)
  | dump
  | push (v : Word)

/-- The operation of each instruction, under the parameters of this hardware. -/
def operation : Instr → Operation
  | .exit code => .exit code
  | .swap offA offB => .swap offA offB
  | .miscReserved2 => .reserved 0x2
  | .miscReserved3 => .reserved 0x3
  | .input => .input
  | .stinput max => .stinput max
  | .miscReserved6 => .reserved 0x6
  | .miscReserved7 => .reserved 0x7
  | .miscReserved8 => .reserved 0x8
  | .miscReserved9 => .reserved 0x9
  | .miscReservedA => .reserved 0xA
  | .miscReservedB => .reserved 0xB
  | .miscReservedC => .reserved 0xC
  | .miscReservedD => .reserved 0xD
  | .miscReservedE => .reserved 0xE
  | .debug imm24 => .debug imm24
  | .pop count => .pop count
  | .add => .binary addWord
  | .sub => .binary subWord
  | .mul => .binary mulWord
  | .div => .binary (divWord Config.params.divmodSigned)
  | .mod => .binary (modWord Config.params.divmodSigned)
  | .and => .binary andWord
  | .or => .binary orWord
  | .xor => .binary xorWord
  | .shl => .binary (shlWord Config.params.shiftMasked)
  | .shr => .binary (shrWord Config.params.shiftMasked)
  | .sar => .binary (sarWord Config.params.shiftMasked)
  | .neg => .unary negWord
  | .not => .unary notWord
  | .prints off => .prints off
  | .call off => .call off
  | .ret count => .ret count
  | .goto off => .goto off
  | .jeq off => .jumpOnTwo condEq off
  | .jne off => .jumpOnTwo condNe off
  | .jlt off => .jumpOnTwo (condLt Config.params.cmpSigned) off
  | .jgt off => .jumpOnTwo (condGt Config.params.cmpSigned) off
  | .jle off => .jumpOnTwo (condLe Config.params.cmpSigned) off
  | .jge off => .jumpOnTwo (condGe Config.params.cmpSigned) off
  | .jbUndefined6 | .jbUndefined7 => .jumpOnTwo condUndefined 0
  | .jz off => .jumpOnOne condZero off
  | .jnz off => .jumpOnOne condNonzero off
  | .jneg off => .jumpOnOne condNeg off
  | .jnneg off => .jumpOnOne condNonneg off
  | .dup off => .dup off
  | .printDec off => .printNum .dec off
  | .printHex off => .printNum .hex off
  | .printBin off => .printNum .bin off
  | .printOct off => .printNum .oct off
  | .dump => .dump
  | .push imm28 => .push (widenImm28 Config.params.pushSext imm28)
  | .arith2UnrecognizedB | .arith2UnrecognizedC | .arith2UnrecognizedD | .arith2UnrecognizedE | .arith2UnrecognizedF => .nop
  | .arith1Unrecognized2 | .arith1Unrecognized3 | .arith1Unrecognized4 | .arith1Unrecognized5 | .arith1Unrecognized6 => .nop
  | .arith1Unrecognized7 | .arith1Unrecognized8 | .arith1Unrecognized9 | .arith1UnrecognizedA | .arith1UnrecognizedB => .nop
  | .arith1UnrecognizedC | .arith1UnrecognizedD | .arith1UnrecognizedE | .arith1UnrecognizedF => .nop
  | .nopA | .nopC => .nop

/-- What an operation does, in the state after the fetch: the meanings are the model's own. -/
def Operation.run : Operation → State → Host.Outcome State Fault Refusal
  | .exit code, s => .next (s.setStatus (.exited code))
  | .swap offA offB, s => .next (s.swapWords (s.spRel offA) (s.spRel offB))
  | .input, s => execInput s
  | .stinput max, s => stinputWith true max s
  | .reserved sub, s => .next (s.raise (.illegalMisc sub))
  | .debug imm24, s => .next (s.emit [.debug imm24 s.pc s.sp])
  | .pop count, s => .next (s.setSp (wrap32 (min (s.sp.toNat + popCount count) Config.N : Nat)))
  | .binary f, s => .next (s.binaryOp f)
  | .unary g, s => .next (s.unaryOp g)
  | .nop, s => .next s
  | .prints off, s => .next (s.printString off)
  | .call off, s => .next (s.call off)
  | .ret count, s => .next (s.retWith true count)
  | .goto off, s => .next (s.redirect (s.pc0 + off))
  | .jumpOnTwo cond off, s => .next (s.binaryJump cond off)
  | .jumpOnOne cond off, s => .next (s.unaryJump cond off)
  | .dup off, s => .next (s.dupWith true off)
  | .printNum fmt off, s => .next (s.printNum fmt off)
  | .dump, s => .next (s.emit (dumpWords s.mem (Config.N / 4) s.sp.toNat))
  | .push v, s => .next (s.push v)

/-- The machine runs an instruction's operation: this ties `operation` and `Operation.run` to `exec`, arm by arm. -/
theorem exec_eq_run (i : Instr) (s : State) : exec i s = (operation i).run s := by
  cases i <;> rfl

/-- A step that answers: the pre-check's halt, or the operation of the fetched word (R90 to R93). -/
theorem step_run_cases {s t : State} (h : step s = .next t) :
    t = s.raise (.fetchBound s.pc) ∧ s.pc.toNat + 4 > Config.N ∨
    s.pc.toNat + 4 ≤ Config.N ∧ (operation (decodeWord s.fetchedWord)).run s.advance = .next t := by
  obtain ⟨-, ⟨hpc, ht⟩ | ⟨hpc, he⟩⟩ := step_cases h
  · exact .inl ⟨ht, hpc⟩
  · exact .inr ⟨hpc, exec_eq_run _ _ ▸ he⟩

/-- The bounds of an operation's operands that the claims about legal and aligned states need (R66, R69, R70, R203). -/
def Operation.wf : Operation → Prop
  | .exit code => -128 ≤ code ∧ code ≤ 127
  | .reserved sub => (Cause.illegalMisc sub).valid = true
  | .debug imm24 => imm24 < 2 ^ 24
  | .call off | .goto off | .jumpOnTwo _ off | .jumpOnOne _ off => off % 4 = 0
  | _ => True

theorem emod_four_of_offsetFits {k : Nat} {off : Int} (h : offsetFits k off = true) : off % 4 = 0 :=
  ((offsetFits_iff k off).1 h).1

/-- A well-formed instruction's operation is well formed. -/
theorem operation_wf {i : Instr} (h : i.wf = true) : (operation i).wf := by
  cases i
  case exit code => simpa [operation, Operation.wf, Instr.wf] using h
  case debug imm24 => simpa [operation, Operation.wf, Instr.wf] using h
  case call off | goto off | jeq off | jne off | jlt off | jgt off | jle off | jge off | jz off | jnz off | jneg off |
      jnneg off => exact emod_four_of_offsetFits h
  all_goals simp [operation, Operation.wf, Cause.valid]

theorem operation_decodeWord_wf (w : Word) : (operation (decodeWord w)).wf := operation_wf (decodeWord_wf w)

/-- Only RET runs the operation of RET. -/
theorem eq_ret_of_operation {i : Instr} {n : Nat} (h : operation i = .ret n) : i = .ret n := by
  cases i <;> cases h; rfl

/-- Only POP runs the operation of POP. -/
theorem eq_pop_of_operation {i : Instr} {n : Nat} (h : operation i = .pop n) : i = .pop n := by
  cases i <;> cases h; rfl

/-- Every next state the outcome gives has the property; a fault gives none. -/
def Ensures (P : State → Prop) : Host.Outcome State Fault Refusal → Prop
  | .next t => P t
  | .fault _ => True
  | .refused _ => True

theorem Ensures.of_eq_next {P : State → Prop} {o : Host.Outcome State Fault Refusal} {t : State}
    (h : Ensures P o) (ht : o = .next t) : P t := by
  subst ht; exact h

/-- INPUT ensures what its effect ensures for every answer of the host (R113, R230). -/
theorem ensures_execInput {P : State → Prop} {s : State} (h : ∀ v port, P ((s.setHost port).takeWord v)) :
    Ensures P (execInput s) := by
  unfold execInput
  split
  · exact h _ _
  · trivial

/-- STINPUT ensures what its effect ensures for every line of the host (R114, R230). -/
theorem ensures_stinputWith {P : State → Prop} {s : State} {max : Nat}
    (h : ∀ line port, P ((s.setHost port).takeLine max line)) : Ensures P (stinputWith true max s) := by
  unfold stinputWith
  simp only [if_true]
  split
  · exact h _ _
  · trivial

end Sys2Proof.Machine
end

section
/-! ## A step does not read the trace: every operation commutes with putting events before those of its state (R31, R232) -/

namespace Sys2Proof.Machine

/-- The state with the given events emitted before all of its own. -/
def State.after (s : State) (past : List Event) : State := { s with trace := past ++ s.trace }

variable (s : State) (past : List Event)

@[simp] theorem State.after_pc : (s.after past).pc = s.pc := rfl
@[simp] theorem State.after_sp : (s.after past).sp = s.sp := rfl
@[simp] theorem State.after_mem : (s.after past).mem = s.mem := rfl
@[simp] theorem State.after_status : (s.after past).status = s.status := rfl
@[simp] theorem State.after_host : (s.after past).host = s.host := rfl
@[simp] theorem State.after_trace : (s.after past).trace = past ++ s.trace := rfl
@[simp] theorem State.after_spRel (off : Int) : (s.after past).spRel off = s.spRel off := rfl
@[simp] theorem State.after_pc0 : (s.after past).pc0 = s.pc0 := rfl
@[simp] theorem State.after_peekTop : (s.after past).peekTop = s.peekTop := rfl
@[simp] theorem State.after_peekLeft : (s.after past).peekLeft = s.peekLeft := rfl

theorem State.after_ite (c : Prop) [Decidable c] (t u : State) :
    (if c then t else u).after past = if c then t.after past else u.after past := apply_ite (State.after · past) c t u

@[simp] theorem State.setPc_after (v : Word) : (s.after past).setPc v = (s.setPc v).after past := rfl
@[simp] theorem State.setSp_after (v : Word) : (s.after past).setSp v = (s.setSp v).after past := rfl
@[simp] theorem State.setMem_after (m : Memory) : (s.after past).setMem m = (s.setMem m).after past := rfl
@[simp] theorem State.setStatus_after (v : Status) : (s.after past).setStatus v = (s.setStatus v).after past := rfl
@[simp] theorem State.setHost_after (h : HostPort) : (s.after past).setHost h = (s.setHost h).after past := rfl
@[simp] theorem State.raise_after (c : Cause) : (s.after past).raise c = (s.raise c).after past := rfl
@[simp] theorem State.advance_after : (s.after past).advance = s.advance.after past := rfl
@[simp] theorem State.pushWord_after (v : Word) : (s.after past).pushWord v = (s.pushWord v).after past := rfl
@[simp] theorem State.popWord_after : (s.after past).popWord = (s.popWord.1, s.popWord.2.after past) := rfl

@[simp] theorem State.emit_after (es : List Event) : (s.after past).emit es = (s.emit es).after past := by
  simp [State.emit, State.after]

@[simp] theorem State.push_after (v : Word) : (s.after past).push v = (s.push v).after past := by
  unfold State.push
  rw [State.after_ite]
  rfl

@[simp] theorem State.pushAll_after (vs : List Word) : (s.after past).pushAll vs = (s.pushAll vs).after past := by
  unfold State.pushAll
  induction vs generalizing s with
  | nil => rfl
  | cons v vs ih => rw [List.foldl_cons, List.foldl_cons, State.push_after, ih]

@[simp] theorem State.redirect_after (t : Int) : (s.after past).redirect t = (s.redirect t).after past := by
  simp [State.redirect, State.after_ite]

@[simp] theorem State.swapWords_after (a b : Int) : (s.after past).swapWords a b = (s.swapWords a b).after past := by
  simp [State.swapWords, State.after_ite]

@[simp] theorem State.takeWord_after (v : Word) : (s.after past).takeWord v = (s.takeWord v).after past := by
  simp [State.takeWord]

@[simp] theorem State.takeLine_after (max : Nat) (line : List Byte) :
    (s.after past).takeLine max line = (s.takeLine max line).after past := by
  simp [State.takeLine, State.after_ite]

@[simp] theorem State.binaryOp_after (f : Word → Word → Word) :
    (s.after past).binaryOp f = (s.binaryOp f).after past := by
  simp [State.binaryOp, State.after_ite]

@[simp] theorem State.unaryOp_after (g : Word → Word) : (s.after past).unaryOp g = (s.unaryOp g).after past := by
  simp [State.unaryOp, State.after_ite]

@[simp] theorem State.printString_after (off : Int) :
    (s.after past).printString off = (s.printString off).after past := by
  simp [State.printString, State.after_ite]

@[simp] theorem State.printNum_after (fmt : NumFmt) (off : Int) :
    (s.after past).printNum fmt off = (s.printNum fmt off).after past := by
  simp [State.printNum, State.after_ite]

@[simp] theorem State.call_after (off : Int) : (s.after past).call off = (s.call off).after past := by
  simp [State.call, State.after_ite]

@[simp] theorem State.retWith_after (present : Bool) (count : Nat) :
    (s.after past).retWith present count = (s.retWith present count).after past := by
  simp [State.retWith, State.after_ite]

@[simp] theorem State.binaryJump_after (cond : Word → Word → Bool) (off : Int) :
    (s.after past).binaryJump cond off = (s.binaryJump cond off).after past := by
  simp [State.binaryJump, State.after_ite]

@[simp] theorem State.unaryJump_after (cond : Word → Bool) (off : Int) :
    (s.after past).unaryJump cond off = (s.unaryJump cond off).after past := by
  simp [State.unaryJump, State.after_ite]

@[simp] theorem State.dupWith_after (present : Bool) (off : Int) :
    (s.after past).dupWith present off = (s.dupWith present off).after past := by
  simp [State.dupWith, State.after_ite]

/-- The outcome whose next state, where there is one, has the given events before its own. -/
def outcomeAfter (past : List Event) : Host.Outcome State Fault Refusal → Host.Outcome State Fault Refusal
  | .next t => .next (t.after past)
  | .fault r => .fault r
  | .refused r => .refused r

theorem outcomeAfter_eq_next {past : List Event} {o : Host.Outcome State Fault Refusal} {t : State} :
    outcomeAfter past o = .next t ↔ ∃ u, o = .next u ∧ t = u.after past := by
  cases o <;> simp [outcomeAfter, eq_comm]

theorem execInput_after : execInput (s.after past) = outcomeAfter past (execInput s) := by
  unfold execInput
  rw [State.after_host]
  cases s.host.nextWord <;> simp [outcomeAfter]

theorem stinputWith_after (present : Bool) (max : Nat) :
    stinputWith present max (s.after past) = outcomeAfter past (stinputWith present max s) := by
  unfold stinputWith illegalMisc
  rw [State.after_host]
  cases present <;> cases s.host.nextLine <;> simp [outcomeAfter]

theorem Operation.run_after (op : Operation) : op.run (s.after past) = outcomeAfter past (op.run s) := by
  cases op
  case input => exact execInput_after s past
  case stinput max => exact stinputWith_after s past true max
  all_goals simp [Operation.run, outcomeAfter]

/-- A step is the same whatever events came before it, and keeps them. -/
theorem step_after : step (s.after past) = outcomeAfter past (step s) := by
  unfold step
  rw [State.after_status, show (s.after past).fetchFits = s.fetchFits from rfl,
    show (s.after past).fetchedWord = s.fetchedWord from rfl, State.advance_after, exec_eq_run, exec_eq_run,
    Operation.run_after]
  cases s.status <;> cases s.fetchFits <;> rfl

/-- What a step answers, told from the state without its trace: the events are the only use of the trace. -/
theorem step_untraced {t : State} (h : step s = .next t) :
    ∃ u, step { s with trace := [] } = .next u ∧ t = u.after s.trace := by
  have hs : s = State.after { s with trace := [] } s.trace := by simp [State.after]
  rw [hs, step_after] at h
  exact outcomeAfter_eq_next.1 h

/-- A step adds events to the trace, and takes none back (R26, R205). -/
theorem step_trace_append {t : State} (h : step s = .next t) : ∃ es, t.trace = s.trace ++ es := by
  obtain ⟨u, -, rfl⟩ := step_untraced s h
  exact ⟨u.trace, rfl⟩

/-- Settles O58: a step commutes with putting events before those of the state, so the events it adds are those it adds to the
empty trace. -/
theorem stepsDoNotReadTheTrace : Obligations.StepsDoNotReadTheTrace := by
  intro s t tr h
  obtain ⟨u, hu, rfl⟩ := step_untraced s h
  refine ⟨u.trace, rfl, ?_⟩
  have htr : ({ s with trace := tr } : State) = State.after { s with trace := [] } tr := by simp [State.after]
  rw [htr, step_after, outcomeAfter_eq_next]
  exact ⟨u, hu, rfl⟩

/-- Settles O57: the events a step adds are appended, and a port's trace is a filter of the whole. -/
theorem eventsAreNeverTakenBack : Obligations.EventsAreNeverTakenBack := by
  refine ⟨fun s t h => ?_, fun _ _ => rfl, rfl, fun _ => rfl, fun _ _ => rfl, fun _ _ => rfl, fun _ _ _ => rfl, fun _ => rfl,
    fun _ => rfl, fun _ => rfl⟩
  obtain ⟨es, he⟩ := step_trace_append s h
  have hle : s.trace <+: t.trace := ⟨es, he.symm⟩
  exact ⟨hle, fun p => hle.filter _⟩

end Sys2Proof.Machine
end

section
/-! ## Legal states: what each operation keeps of the invariant (R24, R26, R30, R201) -/

namespace Sys2Proof.Machine

variable {s : State}

namespace State.Inv

theorem setPc (h : s.Inv) {v : Word} (hv : v.toNat ≤ Config.N) : (s.setPc v).Inv :=
  let ⟨_, hsp, hmem, hst, htr⟩ := h
  ⟨hv, hsp, hmem, hst, htr⟩

theorem setSp (h : s.Inv) {v : Word} (hv : v.toNat ≤ Config.N) : (s.setSp v).Inv :=
  let ⟨hpc, _, hmem, hst, htr⟩ := h
  ⟨hpc, hv, hmem, hst, htr⟩

theorem setMem (h : s.Inv) {m : Memory} (hm : m.wf) : (s.setMem m).Inv :=
  let ⟨hpc, hsp, _, hst, htr⟩ := h
  ⟨hpc, hsp, hm, hst, htr⟩

theorem setStatus (h : s.Inv) {v : Status} (hv : v.valid = true) : (s.setStatus v).Inv :=
  let ⟨hpc, hsp, hmem, _, htr⟩ := h
  ⟨hpc, hsp, hmem, hv, htr⟩

theorem setHost (h : s.Inv) (port : HostPort) : (s.setHost port).Inv := h

theorem raise (h : s.Inv) {c : Cause} (hc : c.valid = true) : (s.raise c).Inv := h.setStatus hc

theorem emit (h : s.Inv) {es : List Event} (he : ∀ e ∈ es, e.valid = true) : (s.emit es).Inv :=
  let ⟨hpc, hsp, hmem, hst, htr⟩ := h
  ⟨hpc, hsp, hmem, hst, fun e hmem => (List.mem_append.1 hmem).elim (htr e) (he e)⟩

theorem writeWord (h : s.Inv) {a : Nat} (v : Word) (ha : a + 4 ≤ Config.N) : (s.setMem (s.mem.writeWord a v)).Inv :=
  let ⟨_, _, hmem, _⟩ := h
  h.setMem (Memory.writeWord_wf v hmem ha)

theorem advance (h : s.Inv) (hpc : s.pc.toNat + 4 ≤ Config.N) : s.advance.Inv :=
  h.setPc (by rw [State.pc_add_toNat hpc]; exact hpc)

theorem pushWord (h : s.Inv) (v : Word) (hs : 4 ≤ s.sp.toNat) : (s.pushWord v).Inv := by
  have ⟨_, hsp, _⟩ := h
  have hsub := State.sp_sub_toNat hs
  exact (h.setSp (by omega)).writeWord v (by omega)

theorem push (h : s.Inv) (v : Word) : (s.push v).Inv := by
  rcases s.push_cases v with ⟨hs, he⟩ | ⟨hs, he⟩ <;> rw [he]
  · exact h.raise (by simpa [Cause.valid] using hs)
  · exact h.pushWord v hs

theorem pushAll (h : s.Inv) (vs : List Word) : (s.pushAll vs).Inv := by
  unfold State.pushAll
  induction vs generalizing s with
  | nil => exact h
  | cons v vs ih => exact ih (h.push v)

theorem redirect (h : s.Inv) (t : Int) : (s.redirect t).Inv := by
  rcases s.redirect_cases t with ⟨ht, he⟩ | ⟨h0, hN, he⟩ <;> rw [he]
  · exact (h.emit (by simpa [Event.valid] using ht)).raise (by simpa [Cause.valid] using ht)
  · have hw := wrap32_toNat h0 (by rw [Config.N_eq] at hN; omega)
    exact h.setPc (by omega)

theorem swapWords (h : s.Inv) (a b : Int) : (s.swapWords a b).Inv := by
  rcases s.swapWords_cases a b with ⟨⟨ha, haN⟩, ⟨hb, hbN⟩, he⟩ | ⟨-, he⟩ <;> rw [he]
  · exact (h.writeWord _ (by omega)).writeWord _ (by omega)
  · exact h

theorem takeWord (h : s.Inv) (v : Word) : (s.takeWord v).Inv :=
  (h.emit (by simp [Event.valid])).push v

theorem takeLine (h : s.Inv) (max : Nat) (line : List Byte) : (s.takeLine max line).Inv := by
  have hline : (s.emit [.inLine line]).Inv := h.emit (by simp [Event.valid])
  rcases s.takeLine_cases max line with ⟨hroom, he⟩ | ⟨-, he⟩ <;> rw [he]
  · exact hline.raise (by simp only [Cause.valid, decide_eq_true_eq]; omega)
  · exact hline.pushAll _

theorem binaryOp (h : s.Inv) (f : Word → Word → Word) : (s.binaryOp f).Inv := by
  rcases s.binaryOp_cases f with ⟨hs, he⟩ | ⟨-, hs, he⟩ | ⟨hs, he⟩ <;> rw [he]
  · exact h.raise (by simp only [Cause.valid, decide_eq_true_eq]; omega)
  · exact h.raise (by simp only [Cause.valid, decide_eq_true_eq]; omega)
  · have hadd := State.sp_add_toNat (s := s) (by omega)
    exact (h.setSp (by omega)).writeWord _ (by omega)

theorem unaryOp (h : s.Inv) (g : Word → Word) : (s.unaryOp g).Inv := by
  rcases s.unaryOp_cases g with ⟨hs, he⟩ | ⟨hs, he⟩ <;> rw [he]
  · exact h.raise (by simp only [Cause.valid, decide_eq_true_eq]; omega)
  · exact h.writeWord _ hs

theorem call (h : s.Inv) (off : Int) : (s.call off).Inv := by
  rcases s.call_cases off with ⟨hs, he⟩ | ⟨hs, he⟩ <;> rw [he]
  · exact h.raise (by simpa [Cause.valid] using hs)
  · exact (h.pushWord _ hs).redirect _

theorem ret (h : s.Inv) (count : Nat) : (s.retWith true count).Inv := by
  rcases s.retWith_cases count _ rfl with ⟨hs, he⟩ | ⟨-, ht, he⟩ | ⟨hs, ht, he⟩ <;> rw [he]
  · exact h.raise (by simp only [Cause.valid, decide_eq_true_eq]; omega)
  · exact (h.emit (by simpa [Event.valid] using .inr ht)).raise (by simpa [Cause.valid] using .inr ht)
  · refine (h.setSp ?_).setPc (by omega)
    rw [BitVec.toNat_ofNat]
    exact (Nat.mod_le _ _).trans hs

theorem binaryJump (h : s.Inv) (cond : Word → Word → Bool) (off : Int) : (s.binaryJump cond off).Inv := by
  rcases s.binaryJump_cases cond off with ⟨hs, he⟩ | ⟨-, -, he⟩ | ⟨-, -, he⟩ <;> rw [he]
  · exact h.raise (by simp only [Cause.valid, decide_eq_true_eq]; omega)
  · exact h.redirect _
  · exact h

theorem unaryJump (h : s.Inv) (cond : Word → Bool) (off : Int) : (s.unaryJump cond off).Inv := by
  rcases s.unaryJump_cases cond off with ⟨hs, he⟩ | ⟨-, -, he⟩ | ⟨-, -, he⟩ <;> rw [he]
  · exact h.raise (by simp only [Cause.valid, decide_eq_true_eq]; omega)
  · exact h.redirect _
  · exact h

theorem dup (h : s.Inv) (off : Int) : (s.dupWith true off).Inv := by
  rcases s.dupWith_cases off with ⟨-, he⟩ | ⟨ha, he⟩ <;> rw [he]
  · exact h.push _
  · exact h.raise (decide_eq_true ha)

theorem printNum (h : s.Inv) (fmt : NumFmt) (off : Int) : (s.printNum fmt off).Inv := by
  rcases s.printNum_cases fmt off with ⟨-, he⟩ | ⟨ha, he⟩ <;> rw [he]
  · exact h.emit (by simp [Event.valid])
  · exact h.raise (decide_eq_true ha)

end State.Inv

/-- PRINTS on one more byte of a word (R190). -/
theorem printBytes_cons (b : Byte) (bs : List Byte) : printBytes (b :: bs) =
    if b = 0x00 then ([], true)
    else if b = 0x01 then printBytes bs else (.char b :: (printBytes bs).1, (printBytes bs).2) := rfl

/-- PRINTS on one more word of memory (R190). -/
theorem printWords_succ (m : Memory) (fuel a : Nat) : printWords m (fuel + 1) a =
    if a + 4 > Config.N then []
    else if (printBytes (bytesOfWord (m.readWord a))).2 then (printBytes (bytesOfWord (m.readWord a))).1
    else (printBytes (bytesOfWord (m.readWord a))).1 ++ printWords m fuel (a + 4) := rfl

/-- A byte that PRINTS emits is neither 0x00 nor 0x01 (R190). -/
theorem printBytes_valid (bs : List Byte) : ∀ e ∈ (printBytes bs).1, e.valid = true := by
  induction bs with
  | nil => simp [printBytes]
  | cons b bs ih =>
    rw [printBytes_cons]
    split_ifs with h0 h1
    · simp
    · exact ih
    · have hb : 2 ≤ b.toNat := by bv_omega
      exact List.forall_mem_cons.2 ⟨decide_eq_true hb, ih⟩

theorem printWords_valid (m : Memory) (fuel a : Nat) : ∀ e ∈ printWords m fuel a, e.valid = true := by
  induction fuel generalizing a with
  | zero => simp [printWords]
  | succ fuel ih =>
    have hword := printBytes_valid (bytesOfWord (m.readWord a))
    rw [printWords_succ]
    split_ifs with hN hstop
    · simp
    · exact hword
    · exact List.forall_mem_append.2 ⟨hword, ih _⟩

/-- DUMP lists whole words of memory (R196). -/
theorem dumpWords_valid (m : Memory) (fuel a : Nat) : ∀ e ∈ dumpWords m fuel a, e.valid = true := by
  induction fuel generalizing a with
  | zero => simp [dumpWords]
  | succ fuel ih =>
    unfold dumpWords
    split_ifs with hN
    · exact List.forall_mem_cons.2 ⟨decide_eq_true hN, ih _⟩
    · simp

theorem State.Inv.printString (h : s.Inv) (off : Int) : (s.printString off).Inv := by
  rcases s.printString_cases off with ⟨ha, he⟩ | ⟨-, he⟩ <;> rw [he]
  · exact h.raise (decide_eq_true fun hb => by omega)
  · exact h.emit (printWords_valid _ _ _)

/-- POP's clamp keeps SP within `0 .. N` (R130). -/
theorem wrap32_min_toNat (n : Nat) : (wrap32 (min n Config.N : Nat)).toNat = min n Config.N := by
  have hN := Config.N_eq
  have := wrap32_toNat (t := (min n Config.N : Nat)) (by omega) (by omega)
  omega

/-- Every operation whose operands are well formed leads from a legal state to a legal one. -/
theorem Operation.run_inv {op : Operation} (hop : op.wf) (h : s.Inv) : Ensures State.Inv (op.run s) := by
  cases op with
  | exit code => exact h.setStatus (decide_eq_true hop)
  | swap offA offB => exact h.swapWords _ _
  | input => exact ensures_execInput fun v port => (h.setHost port).takeWord v
  | stinput max => exact ensures_stinputWith fun line port => (h.setHost port).takeLine max line
  | reserved sub => exact h.raise hop
  | debug imm24 =>
    have ⟨hpc, hsp, _⟩ := h
    exact h.emit (List.forall_mem_singleton.2 (decide_eq_true ⟨hop, hpc, hsp⟩))
  | pop count => exact h.setSp (by rw [wrap32_min_toNat]; exact Nat.min_le_right _ _)
  | binary f => exact h.binaryOp f
  | unary g => exact h.unaryOp g
  | nop => exact h
  | prints off => exact h.printString off
  | call off => exact h.call off
  | ret count => exact h.ret count
  | goto off => exact h.redirect _
  | jumpOnTwo cond off => exact h.binaryJump cond off
  | jumpOnOne cond off => exact h.unaryJump cond off
  | dup off => exact h.dup off
  | printNum fmt off => exact h.printNum fmt off
  | dump => exact h.emit (dumpWords_valid _ _ _)
  | push v => exact h.push v

/-- Settles O52: the pre-check's halt is legal, and so is what the operation of the decoded word leaves. -/
theorem stepKeepsTheInvariant : Obligations.StepKeepsTheInvariant := by
  intro s t h hstep
  rcases step_run_cases hstep with ⟨rfl, hpc⟩ | ⟨hpc, hrun⟩
  · exact h.raise (decide_eq_true hpc)
  · exact (Operation.run_inv (operation_decodeWord_wf _) (h.advance hpc)).of_eq_next hrun

/-- A property that every step keeps holds of every state reached (the one induction over runs). -/
theorem State.Reaches.induct {P : State → Prop} (hstep : ∀ s t, P s → step s = .next t → P t) {t : State}
    (h : s.Reaches t) (hs : P s) : P t := by
  induction h with
  | refl => exact hs
  | tail _ hlast ih => exact hstep _ _ ih hlast

/-- A load that succeeds gives the reset state of a body that fits (R221 to R223). -/
theorem Loader.load_eq_ok {file : List Byte} (h : Loader.load file = .ok s) :
    ∃ body, body.length ≤ Config.N ∧ s = State.loaded body := by
  unfold Loader.load at h
  split_ifs at h with hmarker hsize
  exact ⟨file.drop 4, Nat.le_of_not_lt hsize, (Except.ok.inj h).symm⟩

/-- Settles O51: every clause at the reset values, memory empty. -/
theorem resetIsLegal : Obligations.ResetIsLegal :=
  ⟨Nat.zero_le _, le_rfl, ⟨List.Pairwise.nil, by simp [State.reset]⟩, rfl, by simp [State.reset]⟩

/-- The reset state of a program body that fits is legal. -/
theorem State.loaded_inv {body : List Byte} (h : body.length ≤ Config.N) : (State.loaded body).Inv :=
  State.Inv.setMem resetIsLegal (Memory.ofBytes_wf (by omega))

/-- Settles O53: the loaded state is legal and every step keeps the invariant. -/
theorem runsOfEveryProgramStayLegal : Obligations.RunsOfEveryProgramStayLegal := by
  intro file s t hload hreach
  obtain ⟨body, hlen, rfl⟩ := Loader.load_eq_ok hload
  exact hreach.induct stepKeepsTheInvariant (State.loaded_inv hlen)

end Sys2Proof.Machine
end

section
/-! ## Which register an operation moves, and the alignment of PC and SP (R20, R21, R187) -/

namespace Sys2Proof.Machine

variable (s : State)

/-! ### Operations that leave PC alone -/

@[simp] theorem State.push_pc (v : Word) : (s.push v).pc = s.pc := by
  rcases s.push_cases v with ⟨-, he⟩ | ⟨-, he⟩ <;> rw [he] <;> rfl

@[simp] theorem State.pushAll_pc (vs : List Word) : (s.pushAll vs).pc = s.pc := by
  unfold State.pushAll
  induction vs generalizing s with
  | nil => rfl
  | cons v vs ih => rw [List.foldl_cons, ih, State.push_pc]

@[simp] theorem State.swapWords_pc (a b : Int) : (s.swapWords a b).pc = s.pc := by
  rcases s.swapWords_cases a b with ⟨-, -, he⟩ | ⟨-, he⟩ <;> rw [he]; rfl

@[simp] theorem State.takeWord_pc (v : Word) : (s.takeWord v).pc = s.pc := State.push_pc _ v

@[simp] theorem State.takeLine_pc (max : Nat) (line : List Byte) : (s.takeLine max line).pc = s.pc := by
  rcases s.takeLine_cases max line with ⟨-, he⟩ | ⟨-, he⟩ <;> rw [he] <;> simp

@[simp] theorem State.binaryOp_pc (f : Word → Word → Word) : (s.binaryOp f).pc = s.pc := by
  rcases s.binaryOp_cases f with ⟨-, he⟩ | ⟨-, -, he⟩ | ⟨-, he⟩ <;> rw [he] <;> rfl

@[simp] theorem State.unaryOp_pc (g : Word → Word) : (s.unaryOp g).pc = s.pc := by
  rcases s.unaryOp_cases g with ⟨-, he⟩ | ⟨-, he⟩ <;> rw [he] <;> rfl

@[simp] theorem State.dupWith_pc (off : Int) : (s.dupWith true off).pc = s.pc := by
  rcases s.dupWith_cases off with ⟨-, he⟩ | ⟨-, he⟩ <;> rw [he] <;> simp

@[simp] theorem State.printString_pc (off : Int) : (s.printString off).pc = s.pc := by
  rcases s.printString_cases off with ⟨-, he⟩ | ⟨-, he⟩ <;> rw [he] <;> rfl

@[simp] theorem State.printNum_pc (fmt : NumFmt) (off : Int) : (s.printNum fmt off).pc = s.pc := by
  rcases s.printNum_cases fmt off with ⟨-, he⟩ | ⟨-, he⟩ <;> rw [he] <;> rfl

/-! ### Operations that leave SP alone -/

@[simp] theorem State.redirect_sp (t : Int) : (s.redirect t).sp = s.sp := by
  rcases s.redirect_cases t with ⟨-, he⟩ | ⟨-, -, he⟩ <;> rw [he] <;> rfl

@[simp] theorem State.swapWords_sp (a b : Int) : (s.swapWords a b).sp = s.sp := by
  rcases s.swapWords_cases a b with ⟨-, -, he⟩ | ⟨-, he⟩ <;> rw [he]; rfl

@[simp] theorem State.unaryOp_sp (g : Word → Word) : (s.unaryOp g).sp = s.sp := by
  rcases s.unaryOp_cases g with ⟨-, he⟩ | ⟨-, he⟩ <;> rw [he] <;> rfl

@[simp] theorem State.binaryJump_sp (cond : Word → Word → Bool) (off : Int) : (s.binaryJump cond off).sp = s.sp := by
  rcases s.binaryJump_cases cond off with ⟨-, he⟩ | ⟨-, -, he⟩ | ⟨-, -, he⟩ <;> rw [he] <;> simp

@[simp] theorem State.unaryJump_sp (cond : Word → Bool) (off : Int) : (s.unaryJump cond off).sp = s.sp := by
  rcases s.unaryJump_cases cond off with ⟨-, he⟩ | ⟨-, -, he⟩ | ⟨-, -, he⟩ <;> rw [he] <;> simp

@[simp] theorem State.printString_sp (off : Int) : (s.printString off).sp = s.sp := by
  rcases s.printString_cases off with ⟨-, he⟩ | ⟨-, he⟩ <;> rw [he] <;> rfl

@[simp] theorem State.printNum_sp (fmt : NumFmt) (off : Int) : (s.printNum fmt off).sp = s.sp := by
  rcases s.printNum_cases fmt off with ⟨-, he⟩ | ⟨-, he⟩ <;> rw [he] <;> rfl

variable {s : State}

/-! ### PC -/

theorem State.redirect_pc_aligned {t : Int} (h : s.pc.toNat % 4 = 0) (ht : t % 4 = 0) :
    (s.redirect t).pc.toNat % 4 = 0 := by
  rcases s.redirect_cases t with ⟨-, he⟩ | ⟨h0, hN, he⟩ <;> rw [he]
  · exact h
  · have hw := wrap32_toNat h0 (by rw [Config.N_eq] at hN; omega)
    rw [State.setPc_pc]
    omega

/-- A relative target `PC0 + off` is as aligned as PC and the offset are (R187). -/
theorem State.jump_pc_aligned {off : Int} (h : s.pc.toNat % 4 = 0) (hoff : off % 4 = 0) :
    (s.redirect (s.pc0 + off)).pc.toNat % 4 = 0 :=
  State.redirect_pc_aligned h (by rw [State.pc0]; omega)

theorem State.call_pc_aligned {off : Int} (h : s.pc.toNat % 4 = 0) (hoff : off % 4 = 0) :
    (s.call off).pc.toNat % 4 = 0 := by
  rcases s.call_cases off with ⟨-, he⟩ | ⟨-, he⟩ <;> rw [he]
  · exact h
  · exact State.jump_pc_aligned (s := s.pushWord s.pc) h hoff

theorem State.binaryJump_pc_aligned {off : Int} (cond : Word → Word → Bool) (h : s.pc.toNat % 4 = 0)
    (hoff : off % 4 = 0) : (s.binaryJump cond off).pc.toNat % 4 = 0 := by
  rcases s.binaryJump_cases cond off with ⟨-, he⟩ | ⟨-, -, he⟩ | ⟨-, -, he⟩ <;> rw [he]
  · exact h
  · exact State.jump_pc_aligned h hoff
  · exact h

theorem State.unaryJump_pc_aligned {off : Int} (cond : Word → Bool) (h : s.pc.toNat % 4 = 0)
    (hoff : off % 4 = 0) : (s.unaryJump cond off).pc.toNat % 4 = 0 := by
  rcases s.unaryJump_cases cond off with ⟨-, he⟩ | ⟨-, -, he⟩ | ⟨-, -, he⟩ <;> rw [he]
  · exact h
  · exact State.jump_pc_aligned h hoff
  · exact h

/-- Only CALL, GOTO and the jumps move PC beside RET, and their offsets are multiples of 4. -/
theorem Operation.run_pc_aligned {op : Operation} (hop : op.wf) (hret : ∀ n, op ≠ .ret n) (h : s.pc.toNat % 4 = 0) :
    Ensures (fun t => t.pc.toNat % 4 = 0) (op.run s) := by
  cases op
  case ret n => exact absurd rfl (hret n)
  case call off => exact State.call_pc_aligned h hop
  case goto off => exact State.jump_pc_aligned h hop
  case jumpOnTwo cond off => exact State.binaryJump_pc_aligned cond h hop
  case jumpOnOne cond off => exact State.unaryJump_pc_aligned cond h hop
  case input => exact ensures_execInput fun v port => by simpa using h
  case stinput max => exact ensures_stinputWith fun line port => by simpa using h
  all_goals simpa [Operation.run, Ensures] using h

/-- Settles O59: the pre-check's halt leaves PC, the fetch adds 4, and the operation is not RET's. -/
theorem pcStaysAlignedUnlessRet : Obligations.PcStaysAlignedUnlessRet := by
  intro s t hstep h hret
  rcases step_run_cases hstep with ⟨rfl, -⟩ | ⟨hpc, hrun⟩
  · exact h
  · have hadv : s.advance.pc.toNat % 4 = 0 := by rw [State.advance_pc, State.pc_add_toNat hpc]; omega
    exact (Operation.run_pc_aligned (operation_decodeWord_wf _) (fun n hn => hret n (eq_ret_of_operation hn)) hadv).of_eq_next
      hrun

/-! ### SP -/

theorem State.pushWord_sp_aligned (v : Word) (h : s.sp.toNat % 4 = 0) (hs : 4 ≤ s.sp.toNat) :
    (s.pushWord v).sp.toNat % 4 = 0 := by
  rw [State.pushWord_sp, State.sp_sub_toNat hs]
  omega

theorem State.push_sp_aligned (v : Word) (h : s.sp.toNat % 4 = 0) : (s.push v).sp.toNat % 4 = 0 := by
  rcases s.push_cases v with ⟨-, he⟩ | ⟨hs, he⟩ <;> rw [he]
  · exact h
  · exact State.pushWord_sp_aligned v h hs

theorem State.pushAll_sp_aligned (vs : List Word) (h : s.sp.toNat % 4 = 0) : (s.pushAll vs).sp.toNat % 4 = 0 := by
  unfold State.pushAll
  induction vs generalizing s with
  | nil => exact h
  | cons v vs ih => exact ih (State.push_sp_aligned v h)

theorem State.takeLine_sp_aligned (max : Nat) (line : List Byte) (h : s.sp.toNat % 4 = 0) :
    (s.takeLine max line).sp.toNat % 4 = 0 := by
  rcases s.takeLine_cases max line with ⟨-, he⟩ | ⟨-, he⟩ <;> rw [he]
  · exact h
  · exact State.pushAll_sp_aligned (s := s.emit [.inLine line]) _ h

theorem State.binaryOp_sp_aligned (f : Word → Word → Word) (h : s.sp.toNat % 4 = 0) :
    (s.binaryOp f).sp.toNat % 4 = 0 := by
  rcases s.binaryOp_cases f with ⟨-, he⟩ | ⟨-, -, he⟩ | ⟨hs, he⟩ <;> rw [he]
  · exact h
  · exact h
  · rw [State.setMem_sp, State.setSp_sp, State.sp_add_toNat (by omega)]
    omega

theorem State.dupWith_sp_aligned (off : Int) (h : s.sp.toNat % 4 = 0) : (s.dupWith true off).sp.toNat % 4 = 0 := by
  rcases s.dupWith_cases off with ⟨-, he⟩ | ⟨-, he⟩ <;> rw [he]
  · exact State.push_sp_aligned _ h
  · exact h

theorem State.call_sp_aligned (off : Int) (h : s.sp.toNat % 4 = 0) : (s.call off).sp.toNat % 4 = 0 := by
  rcases s.call_cases off with ⟨-, he⟩ | ⟨hs, he⟩ <;> rw [he]
  · exact h
  · rw [State.redirect_sp]
    exact State.pushWord_sp_aligned s.pc h hs

theorem State.ret_sp_aligned {count : Nat} (h : s.sp.toNat % 4 = 0) (hcount : count % 4 = 0) :
    (s.retWith true count).sp.toNat % 4 = 0 := by
  rcases s.retWith_cases count _ rfl with ⟨-, he⟩ | ⟨-, -, he⟩ | ⟨hs, -, he⟩ <;> rw [he]
  · exact h
  · exact h
  · rw [State.setPc_sp, State.setSp_sp, BitVec.toNat_ofNat]
    omega

/-- POP's count is a multiple of 4 where its field is: 0 stands for one word (R130). -/
theorem popCount_aligned {count : Nat} (h : count % 4 = 0) : popCount count % 4 = 0 := by
  unfold popCount
  split_ifs <;> omega

/-- Every other SP change is by whole words, and `N` is a multiple of 4. -/
theorem Operation.run_sp_aligned {op : Operation} (hop : ∀ n, op = .pop n ∨ op = .ret n → n % 4 = 0)
    (h : s.sp.toNat % 4 = 0) : Ensures (fun t => t.sp.toNat % 4 = 0) (op.run s) := by
  cases op
  case pop count =>
    have hcount := popCount_aligned (hop count (.inl rfl))
    have hN := Config.N_eq
    show (wrap32 (min (s.sp.toNat + popCount count) Config.N : Nat)).toNat % 4 = 0
    rw [wrap32_min_toNat]
    omega
  case ret count => exact State.ret_sp_aligned h (hop count (.inr rfl))
  case call off => exact State.call_sp_aligned off h
  case push v => exact State.push_sp_aligned v h
  case dup off => exact State.dupWith_sp_aligned off h
  case binary f => exact State.binaryOp_sp_aligned f h
  case input => exact ensures_execInput fun v port => State.push_sp_aligned v h
  case stinput max => exact ensures_stinputWith fun line port => State.takeLine_sp_aligned max line h
  all_goals simpa [Operation.run, Ensures] using h

/-- Settles O60: the pre-check and the fetch leave SP, and a POP or RET has a count that is a multiple of 4. -/
theorem spStaysAlignedUnlessOddCount : Obligations.SpStaysAlignedUnlessOddCount := by
  intro s t hstep h hcount
  rcases step_run_cases hstep with ⟨rfl, -⟩ | ⟨-, hrun⟩
  · exact h
  · have hop : ∀ n, operation (decodeWord s.fetchedWord) = .pop n ∨ operation (decodeWord s.fetchedWord) = .ret n →
        n % 4 = 0 := fun n hn => hcount n (hn.imp eq_pop_of_operation eq_ret_of_operation)
    exact (Operation.run_sp_aligned (s := s.advance) hop h).of_eq_next hrun

end Sys2Proof.Machine
end

section
/-! ## The state after reset, and the order of the host's answers -/

namespace Sys2Proof.Machine

/-- Settles O8: the field values of `State.reset`, and the zero fill of an empty memory. -/
theorem resetStateIsAsStated : Obligations.ResetStateIsAsStated :=
  ⟨rfl, rfl, rfl, rfl, Memory.read_nil⟩

variable {h : HostPort}

/-- The settled words come first (the model's choice, notes/assumptions/3.md). -/
theorem HostPort.nextWord_of_cons {v : Word} {rest : List Word} (hw : h.words = v :: rest) :
    h.nextWord = some (v, { h with words := rest }) := by
  simp [HostPort.nextWord, hw]

theorem HostPort.nextWord_of_nil (hw : h.words = []) :
    h.nextWord = if h.answers then some (Config.hostWord h.drawn, { h with drawn := h.drawn + 1 }) else none := by
  simp [HostPort.nextWord, hw]

/-- The settled lines come first (the model's choice, notes/assumptions/3.md). -/
theorem HostPort.nextLine_of_cons {l : List Byte} {rest : List (List Byte)} (hl : h.lines = l :: rest) :
    h.nextLine = some (l, { h with lines := rest }) := by
  simp [HostPort.nextLine, hl]

theorem HostPort.nextLine_of_nil (hl : h.lines = []) :
    h.nextLine = if h.answers then some (Config.hostLine h.drawn, { h with drawn := h.drawn + 1 }) else none := by
  simp [HostPort.nextLine, hl]

theorem HostPort.nextWord_ne_none (ha : h.answers = true) : h.nextWord ≠ none := by
  cases hw : h.words with
  | nil => simp [HostPort.nextWord_of_nil hw, ha]
  | cons v rest => simp [HostPort.nextWord_of_cons hw]

theorem HostPort.nextLine_ne_none (ha : h.answers = true) : h.nextLine ≠ none := by
  cases hl : h.lines with
  | nil => simp [HostPort.nextLine_of_nil hl, ha]
  | cons l rest => simp [HostPort.nextLine_of_cons hl]

/-- Settles O24: a settled answer is used first; else `answers` alone decides whether there is one. -/
theorem settledAnswersAreUsedFirst : Obligations.SettledAnswersAreUsedFirst :=
  ⟨fun _ _ _ => HostPort.nextWord_of_cons, fun _ _ _ => HostPort.nextLine_of_cons,
    fun _ ha => ⟨HostPort.nextWord_ne_none ha, HostPort.nextLine_ne_none ha⟩,
    fun _ ha hw => by simp [HostPort.nextWord_of_nil hw, ha], fun _ ha hl => by simp [HostPort.nextLine_of_nil hl, ha]⟩

end Sys2Proof.Machine
end

section
/-! ## Memory words by byte, and the fetch of a stored word (R40, R41, R51, R90 to R93) -/

namespace Sys2Proof

/-- The stored byte `i`, by the quotient of `bits`, is the bit-vector slice `v[8i+7 : 8i]` (R41). -/
theorem byteOfWord_eq_extractLsb' (v : Word) (i : Nat) : byteOfWord v i = v.extractLsb' (8 * i) 8 := by
  have hwidth : 8 * i + 7 - 8 * i + 1 = 8 := by omega
  apply BitVec.eq_of_toNat_eq
  rw [byteOfWord, bits, hwidth, BitVec.toNat_ofNat, Nat.mod_mod, BitVec.extractLsb'_toNat, Nat.shiftRight_eq_div_pow]

namespace Machine

/-- A byte of the word just written. -/
theorem Memory.read_writeWord_add (m : Memory) (a : Nat) (v : Word) {k : Nat} (hk : k < 4) :
    (m.writeWord a v).read (a + k) = byteOfWord v k := by
  rw [Memory.read_writeWord, if_pos ⟨Nat.le_add_right a k, Nat.add_lt_add_left hk a⟩, Nat.add_sub_cancel_left]

/-- A byte outside the word just written. -/
theorem Memory.read_writeWord_of_outside (m : Memory) (a : Nat) (v : Word) {x : Nat} (hx : x < a ∨ a + 4 ≤ x) :
    (m.writeWord a v).read x = m.read x := by
  rw [Memory.read_writeWord, if_neg (by omega)]

/-- Settles O7: the byte laws of a word write, inside the word and outside it, and the round trip of its four bytes. -/
theorem wordWriteIsLittleEndianAndLocal : Obligations.WordWriteIsLittleEndianAndLocal := by
  intro m a v
  refine ⟨Memory.readWord_writeWord m a v, fun k hk => ?_, fun x hx => Memory.read_writeWord_of_outside m a v hx⟩
  rw [Memory.read_writeWord_add m a v hk, byteOfWord_eq_extractLsb']

/-- The fetch's advance, told by the number PC holds: both wrap modulo 2^32, so it needs no bound (R92). -/
theorem State.advance_eq_setPc_ofNat (s : State) : s.advance = s.setPc (BitVec.ofNat 32 (s.pc.toNat + 4)) := by
  rw [BitVec.ofNat_add, BitVec.ofNat_toNat, BitVec.setWidth_eq]
  rfl

/-- A running state with a whole word at PC runs the fetched instruction in the advanced state (R90, R92, R93). -/
theorem step_of_fetchFits {s : State} (hst : s.status = .running) (hpc : s.pc.toNat + 4 ≤ Config.N) :
    step s = exec (decodeWord s.fetchedWord) s.advance := by
  have hfits : s.fetchFits = true := decide_eq_true hpc
  simp only [step, hst, hfits, if_true]

/-- The fetch reads memory as it is now: the word stored at PC is the word fetched (R51). -/
theorem State.fetchedWord_writeWord_pc (s : State) (v : Word) :
    (s.setMem (s.mem.writeWord s.pc.toNat v)).fetchedWord = v :=
  Memory.readWord_writeWord s.mem s.pc.toNat v

/-- Settles O13: the store leaves STATUS and PC, so the step is the fetch of the stored word, whatever its alignment. -/
theorem fetchSeesTheLatestStore : Obligations.FetchSeesTheLatestStore := by
  rintro s _ v hst hfits rfl
  have hstep := step_of_fetchFits (s := s.setMem (s.mem.writeWord s.pc.toNat v)) hst hfits
  rwa [State.fetchedWord_writeWord_pc, State.advance_eq_setPc_ofNat, State.setMem_pc] at hstep

end Machine
end Sys2Proof
end

section
/-! ## Fields, ignored bits, and the row of every instruction (R62, R64 to R72) -/

namespace Sys2Proof

open Sys2Proof.Claims

/-! ### Fields -/

/-- A field that starts at bit 0 is a remainder. -/
theorem bits_zero (w : Word) (hi : Nat) : bits w hi 0 = w.toNat % 2 ^ (hi + 1) := by simp [bits]

/-- The two's-complement field of a sign-extended field is that field. -/
theorem fieldOf_sext {k f : Nat} (hf : f < 2 ^ k) : fieldOf k (sext k f) = f := by
  have hmod : sext k f % 2 ^ k = f := by
    have hcast : (f : Int) % 2 ^ k = f := Int.emod_eq_of_lt (by positivity) (by exact_mod_cast hf)
    unfold sext
    split_ifs
    · exact hcast
    · rw [Int.sub_emod_right, hcast]
  rw [fieldOf, hmod, Int.toNat_natCast]

/-- Sign extension gives back the integer a field was made of, where the field can hold it. -/
theorem sext_fieldOf {k : Nat} {o : Int} (hlo : -(2 ^ k) ≤ o) (hhi : o < 2 ^ k) : sext (k + 1) (fieldOf (k + 1) o) = o := by
  have hp : (2 : Int) ^ (k + 1) = 2 * 2 ^ k := by ring
  have hc : ((2 ^ k : Nat) : Int) = 2 ^ k := by norm_cast
  rcases lt_or_ge o 0 with hneg | hpos
  · have hmod : o % 2 ^ (k + 1) = o + 2 ^ (k + 1) := by
      rw [← Int.add_emod_right, Int.emod_eq_of_lt (by omega) (by omega)]
    simp only [sext, fieldOf, hmod, Nat.add_sub_cancel]
    rw [if_neg (by omega)]
    omega
  · have hmod : o % 2 ^ (k + 1) = o := Int.emod_eq_of_lt hpos (by omega)
    simp only [sext, fieldOf, hmod, Nat.add_sub_cancel]
    rw [if_pos (by omega)]
    omega

/-- The two low bits of the field of a multiple of 4 are 0. -/
theorem fieldOf_four_mul (k : Nat) (o : Int) : fieldOf (k + 2) (4 * o) = 4 * fieldOf k o := by
  have hp : (2 : Int) ^ (k + 2) = 4 * 2 ^ k := by ring
  rw [fieldOf, fieldOf, hp, Int.mul_emod_mul_of_pos _ _ (by norm_num)]
  omega

/-- An offset's field begins above the two ignored bits. -/
theorem offsetField_two (w : Word) (k : Nat) : offsetField w (k + 2) 2 = 4 * sext (k + 1) (w.toNat / 4 % 2 ^ (k + 1)) := rfl

/-- The field of a decoded offset is the word's low bits but for the two ignored ones (R64 to R66). -/
theorem fieldOf_offsetField (w : Word) (k : Nat) :
    fieldOf (k + 3) (offsetField w (k + 2) 2) + w.toNat % 4 = w.toNat % 2 ^ (k + 3) := by
  have hf : w.toNat / 4 % 2 ^ (k + 1) < 2 ^ (k + 1) := Nat.mod_lt _ (by positivity)
  have hp : 2 ^ (k + 3) = 4 * 2 ^ (k + 1) := by ring
  rw [offsetField_two, fieldOf_four_mul, fieldOf_sext hf, hp, Nat.mod_mul]
  omega

/-- An offset a field can hold is 4 times the field of its quarter (R64 to R67). -/
theorem four_mul_sext_fieldOf {k : Nat} {off : Int} (hfits : offsetFits (k + 2) off = true) :
    4 * sext (k + 1) (fieldOf (k + 1) (off / 4)) = off := by
  obtain ⟨hmod, hlo, hhi⟩ := (offsetFits_iff _ _).mp hfits
  have hp : (2 : Int) ^ (k + 2) = 4 * 2 ^ k := by ring
  rw [sext_fieldOf (by omega) (by omega)]
  omega

/-- An offset is read back from a word that holds its field (R64 to R66). -/
theorem offsetField_of_fieldOf {w : Word} {k : Nat} {off : Int} (hfits : offsetFits (k + 2) off = true)
    (hw : w.toNat % 2 ^ (k + 3) = fieldOf (k + 3) off) : offsetField w (k + 2) 2 = off := by
  obtain ⟨hmod, -, -⟩ := (offsetFits_iff _ _).mp hfits
  have hoff : fieldOf (k + 3) off = 4 * fieldOf (k + 1) (off / 4) := by
    rw [← fieldOf_four_mul]; congr 1; omega
  have hp : 2 ^ (k + 3) = 4 * 2 ^ (k + 1) := by ring
  rw [hoff, hp, Nat.mod_mul] at hw
  have hfield : w.toNat / 4 % 2 ^ (k + 1) = fieldOf (k + 1) (off / 4) := by omega
  rw [offsetField_two, hfield, four_mul_sext_fieldOf hfits]

/-- The head of a number made of a head and a low part. -/
theorem mul_add_div_of_lt {m f : Nat} (v : Nat) (h : f < m) : (v * m + f) / m = v :=
  Nat.div_eq_of_lt_le (by omega) (by rw [Nat.succ_mul]; omega)

/-! ### Ignored bits -/

/-- What the ignored bits of the instruction's word add to the word's number (R72). -/
def ignoredPart (i : Instr) (w : Word) : Nat :=
  match ignoredField i with
  | none => 0
  | some (hi, lo) => bits w hi lo * 2 ^ lo

theorem ignoredPart_of_none {i : Instr} (h : ignoredField i = none) (w : Word) : ignoredPart i w = 0 := by
  simp [ignoredPart, h]

theorem ignoredPart_of_some {i : Instr} {hi lo : Nat} (h : ignoredField i = some (hi, lo)) (w : Word) :
    ignoredPart i w = bits w hi lo * 2 ^ lo := by
  simp [ignoredPart, h]

/-- The two words differ at most in the bits `hi` down to `lo`. -/
def AgreeOutside (hi lo : Nat) (w w' : Word) : Prop :=
  w'.toNat / 2 ^ (hi + 1) = w.toNat / 2 ^ (hi + 1) ∧ w'.toNat % 2 ^ lo = w.toNat % 2 ^ lo

/-- What lies above the bits in which two words differ is the same. -/
theorem AgreeOutside.div_eq {hi lo l : Nat} {w w' : Word} (h : AgreeOutside hi lo w w') (hl : hi < l) :
    w'.toNat / 2 ^ l = w.toNat / 2 ^ l := by
  obtain ⟨d, rfl⟩ := Nat.exists_eq_add_of_le (Nat.succ_le_of_lt hl)
  rw [pow_add, ← Nat.div_div_eq_div_mul, ← Nat.div_div_eq_div_mul, h.1]

/-- A field above those bits is the same. -/
theorem AgreeOutside.bits_eq {hi lo : Nat} {w w' : Word} (h : AgreeOutside hi lo w w') {top bot : Nat} (hb : hi < bot) :
    bits w' top bot = bits w top bot := by rw [bits, bits, h.div_eq hb]

/-! ### The rows of the opcode table -/

/-- The decoder reads each word of the row `w[31:l] = v` by `read`, and `i` is an instruction of that row. -/
structure RowOf (i : Instr) (l v : Nat) (read : Word → Instr) : Prop where
  /-- The table lists the row under the mnemonic of what is read. -/
  mem : ∀ w, ⟨(read w).mnemonic, l, v⟩ ∈ opcodeTable
  /-- The decoder's tables lead the row's words to `read`. -/
  decodes : ∀ w, w.toNat / 2 ^ l = v → decodeWord w = read w
  /-- The encoder puts the instruction in the row. -/
  encodes : i.wf = true → encodeNat i / 2 ^ l = v
  /-- The instruction is read back from its own number. -/
  readBack : ∀ w, i.wf = true → w.toNat = encodeNat i → read w = i
  /-- What is read has the word's number but for the ignored bits. -/
  number : ∀ w, w.toNat / 2 ^ l = v → encodeNat (read w) + ignoredPart (read w) w = w.toNat
  /-- Ignored bits are operand bits, and they are not read. -/
  ignores : ∀ w hi lo, ignoredField (read w) = some (hi, lo) →
    hi < l ∧ ∀ w', AgreeOutside hi lo w w' → read w' = read w

/-- A row without operands: every bit below the row's is ignored. `index` is the row's place in the opcode table. -/
theorem RowOf.const {i : Instr} {l v : Nat} (index : Nat)
    (hdec : ∀ w : Word, w.toNat / 2 ^ (l + 1) = v → decodeWord w = i)
    (hrow : opcodeTable[index]? = some ⟨i.mnemonic, l + 1, v⟩ := by exact rfl)
    (henc : encodeNat i = v * 2 ^ (l + 1) := by exact rfl)
    (hign : ignoredField i = some (l, 0) := by exact rfl) : RowOf i (l + 1) v fun _ => i where
  mem _ := List.mem_of_getElem? hrow
  decodes := hdec
  encodes _ := by rw [henc, Nat.mul_div_cancel _ (by positivity)]
  readBack _ _ _ := rfl
  number w hw := by
    rw [ignoredPart_of_some hign, henc, bits_zero, ← hw, pow_zero, Nat.mul_one, Nat.div_add_mod']
  ignores w hi lo h := by
    obtain ⟨rfl, rfl⟩ : l = hi ∧ 0 = lo := by simpa [hign] using h
    exact ⟨Nat.lt_succ_self l, fun _ _ => rfl⟩

/-- A row whose operand is the unsigned number of all its low bits (R68, R70). -/
theorem RowOf.imm {c : Nat → Instr} {n l v : Nat} (index : Nat)
    (hdec : ∀ w : Word, w.toNat / 2 ^ (l + 1) = v → decodeWord w = c (bits w l 0))
    (hrow : ∀ n, opcodeTable[index]? = some ⟨(c n).mnemonic, l + 1, v⟩ := by exact fun _ => rfl)
    (henc : ∀ n, encodeNat (c n) = v * 2 ^ (l + 1) + n := by exact fun _ => rfl)
    (hign : ∀ n, ignoredField (c n) = none := by exact fun _ => rfl)
    (hwf : ∀ n, (c n).wf = decide (n < 2 ^ (l + 1)) := by exact fun _ => rfl) :
    RowOf (c n) (l + 1) v fun w => c (bits w l 0) where
  mem _ := List.mem_of_getElem? (hrow _)
  decodes := hdec
  encodes h := by
    rw [hwf, decide_eq_true_eq] at h
    rw [henc, mul_add_div_of_lt v h]
  readBack w h hw := by
    rw [hwf, decide_eq_true_eq] at h
    rw [bits_zero, hw, henc, Nat.mul_add_mod', Nat.mod_eq_of_lt h]
  number w hw := by
    rw [ignoredPart_of_none (hign _), henc, bits_zero, ← hw, Nat.add_zero, Nat.div_add_mod']
  ignores w hi lo h := by simp [hign] at h

/-- A row whose operand is a byte offset above two ignored bits (R64 to R66). -/
theorem RowOf.offset {c : Int → Instr} {off : Int} {k v : Nat} (index : Nat)
    (hdec : ∀ w : Word, w.toNat / 2 ^ (k + 3) = v → decodeWord w = c (offsetField w (k + 2) 2))
    (hrow : ∀ o, opcodeTable[index]? = some ⟨(c o).mnemonic, k + 3, v⟩ := by exact fun _ => rfl)
    (henc : ∀ o, encodeNat (c o) = v * 2 ^ (k + 3) + fieldOf (k + 3) o := by exact fun _ => rfl)
    (hign : ∀ o, ignoredField (c o) = some (1, 0) := by exact fun _ => rfl)
    (hwf : ∀ o, (c o).wf = offsetFits (k + 2) o := by exact fun _ => rfl) :
    RowOf (c off) (k + 3) v fun w => c (offsetField w (k + 2) 2) where
  mem _ := List.mem_of_getElem? (hrow _)
  decodes := hdec
  encodes _ := by
    rw [henc, mul_add_div_of_lt v (Laws.fieldOf_lt off le_rfl)]
  readBack w h hw := by
    rw [hwf] at h
    rw [offsetField_of_fieldOf h]
    rw [hw, henc, Nat.mul_add_mod', Nat.mod_eq_of_lt (Laws.fieldOf_lt off le_rfl)]
  number w hw := by
    have hfield := fieldOf_offsetField w k
    have hsplit := Nat.div_add_mod' w.toNat (2 ^ (k + 3))
    rw [ignoredPart_of_some (hign _), henc, bits_zero, ← hw]
    omega
  ignores w hi lo h := by
    obtain ⟨rfl, rfl⟩ : 1 = hi ∧ 0 = lo := by simpa [hign] using h
    refine ⟨by omega, fun w' hw' => ?_⟩
    simp only [offsetField, hw'.bits_eq (Nat.lt_succ_self 1)]

/-! ### The decoder's tables lead to the rows -/

/-- The opcode alone selects the reading. -/
theorem decodeWord_opcode (op : Fin 16) (w : Word) (h : w.toNat / 2 ^ 28 = op) : decodeWord w = opcodeMap.get op w := by
  have hsel : bits w 31 28 = op := by rw [bits, h]; exact Nat.mod_eq_of_lt op.isLt
  exact decodeWord_of_opcode hsel

/-- A family's sub-table: the bits from `l` up to 27 select the reading (R71, R74 to R78). -/
theorem decodeWord_family {op : Fin 16} {l : Nat} {table : Vector (Word → Instr) (2 ^ (27 - l + 1))}
    (hop : opcodeMap.get op = fun w => table.get (selector w 27 l) w) (hl : l ≤ 27) (k : Fin (2 ^ (27 - l + 1)))
    (w : Word) (h : w.toNat / 2 ^ l = op * 2 ^ (27 - l + 1) + k) : decodeWord w = table.get k w := by
  have hpow : 2 ^ 28 = 2 ^ l * 2 ^ (27 - l + 1) := by rw [← pow_add]; congr 1; omega
  have hopcode : w.toNat / 2 ^ 28 = op := by
    rw [hpow, ← Nat.div_div_eq_div_mul, h, mul_add_div_of_lt _ k.isLt]
  have hsel : bits w 27 l = k := by rw [bits, h, Nat.mul_add_mod', Nat.mod_eq_of_lt k.isLt]
  rw [decodeWord_opcode op w hopcode, hop]
  exact congrArg (table.get · w) (selector_eq hsel)

/-- Family 0x0 (R74). -/
theorem decodeWord_misc (k : Fin 16) (w : Word) (h : w.toNat / 2 ^ 24 = 0x00 + k) : decodeWord w = miscTable.get k w :=
  decodeWord_family (op := 0x0) (l := 24) rfl (by decide) k w h

/-- Family 0x2 (R75). -/
theorem decodeWord_binary (k : Fin 16) (w : Word) (h : w.toNat / 2 ^ 24 = 0x20 + k) : decodeWord w = binaryTable.get k w :=
  decodeWord_family (op := 0x2) (l := 24) rfl (by decide) k w h

/-- Family 0x3 (R76). -/
theorem decodeWord_unary (k : Fin 16) (w : Word) (h : w.toNat / 2 ^ 24 = 0x30 + k) : decodeWord w = unaryTable.get k w :=
  decodeWord_family (op := 0x3) (l := 24) rfl (by decide) k w h

/-- Family 0x8 (R77). -/
theorem decodeWord_binaryJump (k : Fin 8) (w : Word) (h : w.toNat / 2 ^ 25 = 0x40 + k) :
    decodeWord w = binaryJumpTable.get k w :=
  decodeWord_family (op := 0x8) (l := 25) rfl (by decide) k w h

/-- Family 0x9 (R77). -/
theorem decodeWord_unaryJump (k : Fin 4) (w : Word) (h : w.toNat / 2 ^ 26 = 0x24 + k) :
    decodeWord w = unaryJumpTable.get k w :=
  decodeWord_family (op := 0x9) (l := 26) rfl (by decide) k w h

/-- Family 0xD (R78). -/
theorem decodeWord_print (k : Fin 4) (w : Word) (h : w.toNat / 2 ^ 26 = 0x34 + k) : decodeWord w = printTable.get k w :=
  decodeWord_family (op := 0xD) (l := 26) rfl (by decide) k w h

/-! ### A row for every instruction -/

/-- EXIT's code lies in `w[7:0]`, and `w[23:8]` is ignored (R72, R111). -/
theorem exit_row (code : Int) : RowOf (.exit code) 24 0x00 fun w => .exit (sext 8 (bits w 7 0)) where
  mem _ := List.mem_of_getElem? (i := 0) rfl
  decodes := decodeWord_misc 0x0
  encodes _ := by
    have hfield := Laws.fieldOf_lt (k := 8) (m := 2 ^ 8) code le_rfl
    rw [encodeNat]
    omega
  readBack w h hw := by
    have hfield := Laws.fieldOf_lt (k := 8) (m := 2 ^ 8) code le_rfl
    simp only [Instr.wf, Bool.and_eq_true, decide_eq_true_eq] at h
    simp only [encodeNat, Nat.zero_add] at hw
    rw [bits_zero, hw, Nat.mod_eq_of_lt hfield, sext_fieldOf (k := 7) (by omega) (by omega)]
  number w hw := by
    rw [ignoredPart_of_some (hi := 23) (lo := 8) rfl, encodeNat, fieldOf_sext (bits_lt w 7 0)]
    simp only [bits]
    omega
  ignores w hi lo h := by
    obtain ⟨rfl, rfl⟩ : 23 = hi ∧ 8 = lo := by simpa [ignoredField] using h
    exact ⟨by decide, fun w' hw' => by rw [bits_zero, bits_zero, hw'.2]⟩

/-- SWAP's offsets fill `w[23:12]` and `w[11:0]` (R67). -/
theorem swap_row (offA offB : Int) :
    RowOf (.swap offA offB) 24 0x01 fun w => .swap (offsetField w 23 12) (offsetField w 11 0) where
  mem _ := List.mem_of_getElem? (i := 1) rfl
  decodes := decodeWord_misc 0x1
  encodes _ := by
    have hA := Laws.fieldOf_lt (k := 12) (m := 2 ^ 12) (offA / 4) le_rfl
    have hB := Laws.fieldOf_lt (k := 12) (m := 2 ^ 12) (offB / 4) le_rfl
    rw [encodeNat]
    omega
  readBack w h hw := by
    obtain ⟨hfitsA, hfitsB⟩ := (Bool.and_eq_true _ _).mp h
    have hA := Laws.fieldOf_lt (k := 12) (m := 2 ^ 12) (offA / 4) le_rfl
    have hB := Laws.fieldOf_lt (k := 12) (m := 2 ^ 12) (offB / 4) le_rfl
    rw [encodeNat] at hw
    have hbitsA : bits w 23 12 = fieldOf 12 (offA / 4) := by rw [bits]; omega
    have hbitsB : bits w 11 0 = fieldOf 12 (offB / 4) := by rw [bits]; omega
    rw [offsetField, offsetField, hbitsA, hbitsB]
    exact congrArg₂ Instr.swap (four_mul_sext_fieldOf hfitsA) (four_mul_sext_fieldOf hfitsB)
  number w hw := by
    have hquarter (z : Int) : 4 * z / 4 = z := Int.mul_ediv_cancel_left z (by norm_num)
    rw [ignoredPart_of_none rfl, encodeNat, offsetField, offsetField, hquarter, hquarter,
      fieldOf_sext (bits_lt w 23 12), fieldOf_sext (bits_lt w 11 0)]
    simp only [bits]
    omega
  ignores _ _ _ h := nomatch h

/-- Every instruction is one of a row: where the opcode table lists it, and where the decoder's tables read it. -/
theorem exists_rowOf : ∀ i : Instr, ∃ l v read, RowOf i l v read
  | .exit code => ⟨_, _, _, exit_row code⟩
  | .swap offA offB => ⟨_, _, _, swap_row offA offB⟩
  | .miscReserved2 => ⟨_, _, _, .const 2 (decodeWord_misc 0x2)⟩
  | .miscReserved3 => ⟨_, _, _, .const 3 (decodeWord_misc 0x3)⟩
  | .input => ⟨_, _, _, .const 4 (decodeWord_misc 0x4)⟩
  | .stinput _ => ⟨_, _, _, .imm 5 (decodeWord_misc 0x5)⟩
  | .miscReserved6 => ⟨_, _, _, .const 6 (decodeWord_misc 0x6)⟩
  | .miscReserved7 => ⟨_, _, _, .const 7 (decodeWord_misc 0x7)⟩
  | .miscReserved8 => ⟨_, _, _, .const 8 (decodeWord_misc 0x8)⟩
  | .miscReserved9 => ⟨_, _, _, .const 9 (decodeWord_misc 0x9)⟩
  | .miscReservedA => ⟨_, _, _, .const 10 (decodeWord_misc 0xA)⟩
  | .miscReservedB => ⟨_, _, _, .const 11 (decodeWord_misc 0xB)⟩
  | .miscReservedC => ⟨_, _, _, .const 12 (decodeWord_misc 0xC)⟩
  | .miscReservedD => ⟨_, _, _, .const 13 (decodeWord_misc 0xD)⟩
  | .miscReservedE => ⟨_, _, _, .const 14 (decodeWord_misc 0xE)⟩
  | .debug _ => ⟨_, _, _, .imm 15 (decodeWord_misc 0xF)⟩
  | .pop _ => ⟨_, _, _, .imm 16 (decodeWord_opcode 0x1)⟩
  | .add => ⟨_, _, _, .const 17 (decodeWord_binary 0x0)⟩
  | .sub => ⟨_, _, _, .const 18 (decodeWord_binary 0x1)⟩
  | .mul => ⟨_, _, _, .const 19 (decodeWord_binary 0x2)⟩
  | .div => ⟨_, _, _, .const 20 (decodeWord_binary 0x3)⟩
  | .mod => ⟨_, _, _, .const 21 (decodeWord_binary 0x4)⟩
  | .and => ⟨_, _, _, .const 22 (decodeWord_binary 0x5)⟩
  | .or => ⟨_, _, _, .const 23 (decodeWord_binary 0x6)⟩
  | .xor => ⟨_, _, _, .const 24 (decodeWord_binary 0x7)⟩
  | .shl => ⟨_, _, _, .const 25 (decodeWord_binary 0x8)⟩
  | .shr => ⟨_, _, _, .const 26 (decodeWord_binary 0x9)⟩
  | .sar => ⟨_, _, _, .const 27 (decodeWord_binary 0xA)⟩
  | .arith2UnrecognizedB => ⟨_, _, _, .const 28 (decodeWord_binary 0xB)⟩
  | .arith2UnrecognizedC => ⟨_, _, _, .const 29 (decodeWord_binary 0xC)⟩
  | .arith2UnrecognizedD => ⟨_, _, _, .const 30 (decodeWord_binary 0xD)⟩
  | .arith2UnrecognizedE => ⟨_, _, _, .const 31 (decodeWord_binary 0xE)⟩
  | .arith2UnrecognizedF => ⟨_, _, _, .const 32 (decodeWord_binary 0xF)⟩
  | .neg => ⟨_, _, _, .const 33 (decodeWord_unary 0x0)⟩
  | .not => ⟨_, _, _, .const 34 (decodeWord_unary 0x1)⟩
  | .arith1Unrecognized2 => ⟨_, _, _, .const 35 (decodeWord_unary 0x2)⟩
  | .arith1Unrecognized3 => ⟨_, _, _, .const 36 (decodeWord_unary 0x3)⟩
  | .arith1Unrecognized4 => ⟨_, _, _, .const 37 (decodeWord_unary 0x4)⟩
  | .arith1Unrecognized5 => ⟨_, _, _, .const 38 (decodeWord_unary 0x5)⟩
  | .arith1Unrecognized6 => ⟨_, _, _, .const 39 (decodeWord_unary 0x6)⟩
  | .arith1Unrecognized7 => ⟨_, _, _, .const 40 (decodeWord_unary 0x7)⟩
  | .arith1Unrecognized8 => ⟨_, _, _, .const 41 (decodeWord_unary 0x8)⟩
  | .arith1Unrecognized9 => ⟨_, _, _, .const 42 (decodeWord_unary 0x9)⟩
  | .arith1UnrecognizedA => ⟨_, _, _, .const 43 (decodeWord_unary 0xA)⟩
  | .arith1UnrecognizedB => ⟨_, _, _, .const 44 (decodeWord_unary 0xB)⟩
  | .arith1UnrecognizedC => ⟨_, _, _, .const 45 (decodeWord_unary 0xC)⟩
  | .arith1UnrecognizedD => ⟨_, _, _, .const 46 (decodeWord_unary 0xD)⟩
  | .arith1UnrecognizedE => ⟨_, _, _, .const 47 (decodeWord_unary 0xE)⟩
  | .arith1UnrecognizedF => ⟨_, _, _, .const 48 (decodeWord_unary 0xF)⟩
  | .prints _ => ⟨_, _, _, .offset 49 (decodeWord_opcode 0x4)⟩
  | .call _ => ⟨_, _, _, .offset 50 (decodeWord_opcode 0x5)⟩
  | .ret _ => ⟨_, _, _, .imm 51 (decodeWord_opcode 0x6)⟩
  | .goto _ => ⟨_, _, _, .offset 52 (decodeWord_opcode 0x7)⟩
  | .jeq _ => ⟨_, _, _, .offset 53 (decodeWord_binaryJump 0)⟩
  | .jne _ => ⟨_, _, _, .offset 54 (decodeWord_binaryJump 1)⟩
  | .jlt _ => ⟨_, _, _, .offset 55 (decodeWord_binaryJump 2)⟩
  | .jgt _ => ⟨_, _, _, .offset 56 (decodeWord_binaryJump 3)⟩
  | .jle _ => ⟨_, _, _, .offset 57 (decodeWord_binaryJump 4)⟩
  | .jge _ => ⟨_, _, _, .offset 58 (decodeWord_binaryJump 5)⟩
  | .jbUndefined6 => ⟨_, _, _, .const 59 (decodeWord_binaryJump 6)⟩
  | .jbUndefined7 => ⟨_, _, _, .const 60 (decodeWord_binaryJump 7)⟩
  | .jz _ => ⟨_, _, _, .offset 61 (decodeWord_unaryJump 0)⟩
  | .jnz _ => ⟨_, _, _, .offset 62 (decodeWord_unaryJump 1)⟩
  | .jneg _ => ⟨_, _, _, .offset 63 (decodeWord_unaryJump 2)⟩
  | .jnneg _ => ⟨_, _, _, .offset 64 (decodeWord_unaryJump 3)⟩
  | .nopA => ⟨_, _, _, .const 65 (decodeWord_opcode 0xA)⟩
  | .dup _ => ⟨_, _, _, .offset 66 (decodeWord_opcode 0xB)⟩
  | .nopC => ⟨_, _, _, .const 67 (decodeWord_opcode 0xC)⟩
  | .printDec _ => ⟨_, _, _, .offset 68 (decodeWord_print 0)⟩
  | .printHex _ => ⟨_, _, _, .offset 69 (decodeWord_print 1)⟩
  | .printBin _ => ⟨_, _, _, .offset 70 (decodeWord_print 2)⟩
  | .printOct _ => ⟨_, _, _, .offset 71 (decodeWord_print 3)⟩
  | .dump => ⟨_, _, _, .const 72 (decodeWord_opcode 0xE)⟩
  | .push _ => ⟨_, _, _, .imm 73 (decodeWord_opcode 0xF)⟩

end Sys2Proof
end

section
/-! ## The opcode table tiles the words, and every word is in the row of an instruction (R73, R79) -/

namespace Sys2Proof

/-- The number of the row's first word. -/
def OpcodeRow.first (r : OpcodeRow) : Nat := r.value * 2 ^ r.lo

/-- The number after that of the row's last word. -/
def OpcodeRow.next (r : OpcodeRow) : Nat := (r.value + 1) * 2 ^ r.lo

/-- The rows follow each other without gap or overlap, from the number `a` up to `b`. -/
def Tiles : Nat → List OpcodeRow → Nat → Prop
  | a, [], b => a = b
  | a, r :: rs, b => r.first = a ∧ Tiles r.next rs b

theorem OpcodeRow.div_eq_iff (r : OpcodeRow) (n : Nat) : n / 2 ^ r.lo = r.value ↔ r.first ≤ n ∧ n < r.next := by
  have hpos : 0 < 2 ^ r.lo := by positivity
  rw [Nat.div_eq_iff hpos, first, next, Nat.succ_mul]
  omega

theorem OpcodeRow.first_le_next (r : OpcodeRow) : r.first ≤ r.next := Nat.mul_le_mul_right _ (Nat.le_succ _)

/-- Rows that follow each other lie between the two ends. -/
theorem Tiles.bounds {b : Nat} : ∀ {rs : List OpcodeRow} {a : Nat}, Tiles a rs b → a ≤ b ∧ ∀ r ∈ rs, a ≤ r.first ∧ r.next ≤ b
  | [], _, h => ⟨h.le, by simp⟩
  | r :: rs, _, ⟨hfirst, htail⟩ => by
    obtain ⟨hle, hrest⟩ := htail.bounds
    have hr := r.first_le_next
    refine ⟨by omega, List.forall_mem_cons.mpr ⟨by omega, fun r' hr' => ?_⟩⟩
    have := hrest r' hr'
    omega

/-- Each number between the ends lies in a row. -/
theorem Tiles.exists_mem {b n : Nat} (hn : n < b) : ∀ {rs : List OpcodeRow} {a : Nat}, Tiles a rs b → a ≤ n →
    ∃ r ∈ rs, r.first ≤ n ∧ n < r.next
  | [], _, h, ha => by rw [Tiles] at h; omega
  | r :: rs, _, ⟨hfirst, htail⟩, ha => by
    rcases lt_or_ge n r.next with hlt | hge
    · exact ⟨r, List.mem_cons_self, by omega, hlt⟩
    · obtain ⟨r', hr', hin⟩ := htail.exists_mem hn hge
      exact ⟨r', List.mem_cons_of_mem r hr', hin⟩

/-- No number lies in two rows. -/
theorem Tiles.unique {b n : Nat} {r r' : OpcodeRow} (hr : r.first ≤ n ∧ n < r.next) (hr' : r'.first ≤ n ∧ n < r'.next) :
    ∀ {rs : List OpcodeRow} {a : Nat}, Tiles a rs b → r ∈ rs → r' ∈ rs → r = r'
  | head :: rs, _, ⟨_, htail⟩, hmem, hmem' => by
    have hstart : ∀ q ∈ rs, head.next ≤ q.first := fun q hq => (htail.bounds.2 q hq).1
    rcases List.mem_cons.mp hmem with rfl | htl
    · rcases List.mem_cons.mp hmem' with rfl | htl'
      · rfl
      · have := hstart r' htl'
        omega
    · rcases List.mem_cons.mp hmem' with rfl | htl'
      · have := hstart r htl
        omega
      · exact htail.unique hr hr' htl htl'

/-- The rows of the table follow each other from the first word to the last (R73, R79). -/
theorem opcodeTable_tiles : Tiles 0 opcodeTable (2 ^ 32) := by
  simp [opcodeTable, Tiles, OpcodeRow.first, OpcodeRow.next]

/-- A word is in a row when its bits from `lo` up are the row's value. -/
theorem OpcodeRow.holds_iff {r : OpcodeRow} (hr : r ∈ opcodeTable) (w : Word) :
    r.holds w = true ↔ w.toNat / 2 ^ r.lo = r.value := by
  have hlo : ∀ r ∈ opcodeTable, r.lo ≤ 28 := by decide
  have := hlo r hr
  have hfield : w.toNat / 2 ^ r.lo < 2 ^ (31 - r.lo + 1) := by
    rw [Nat.div_lt_iff_lt_mul (by positivity), ← pow_add, show 31 - r.lo + 1 + r.lo = 32 by omega]
    exact w.isLt
  rw [holds, bits, Nat.mod_eq_of_lt hfield, beq_iff_eq]

/-- No word is in two rows of the table. -/
theorem opcodeTable_unique {r r' : OpcodeRow} (hr : r ∈ opcodeTable) (hr' : r' ∈ opcodeTable) {n : Nat}
    (hn : n / 2 ^ r.lo = r.value) (hn' : n / 2 ^ r'.lo = r'.value) : r = r' :=
  Tiles.unique ((r.div_eq_iff n).mp hn) ((r'.div_eq_iff n).mp hn') opcodeTable_tiles hr hr'

/-- The first word of each row is the encoding of what it decodes to. -/
theorem encodeNat_decodeWord_first : ∀ r ∈ opcodeTable, encodeNat (decodeWord (BitVec.ofNat 32 r.first)) = r.first := by
  decide

theorem RowOf.encodeNat_lt {i : Instr} {l v : Nat} {read : Word → Instr} (h : RowOf i l v read) (hwf : i.wf = true) :
    encodeNat i < 2 ^ 32 := by
  have hmem := h.mem 0
  have hin := (OpcodeRow.div_eq_iff ⟨(read 0).mnemonic, l, v⟩ (encodeNat i)).mp (h.encodes hwf)
  have hle := (opcodeTable_tiles.bounds.2 _ hmem).2
  omega

/-- Every word is in the row of an instruction: the row of what the first word of the word's row decodes to. -/
theorem exists_rowOf_word (w : Word) : ∃ i l v read, RowOf i l v read ∧ w.toNat / 2 ^ l = v := by
  obtain ⟨r, hr, hin⟩ := opcodeTable_tiles.exists_mem w.isLt (Nat.zero_le _)
  obtain ⟨l, v, read, hrow⟩ := exists_rowOf (decodeWord (BitVec.ofNat 32 r.first))
  have hfirst := hrow.encodes (decodeWord_wf _)
  rw [encodeNat_decodeWord_first r hr] at hfirst
  have hself : r.first / 2 ^ r.lo = r.value := Nat.mul_div_cancel _ (by positivity)
  obtain rfl := opcodeTable_unique hr (hrow.mem w) hself hfirst
  exact ⟨_, _, _, _, hrow, (OpcodeRow.div_eq_iff _ _).mpr hin⟩

end Sys2Proof
end

section
/-! ## Decoding and encoding agree on instructions and on words (R62, R64 to R70, R72, R84) -/

namespace Sys2Proof

open Sys2Proof.Claims

/-- A well-formed instruction is decoded from its word. -/
theorem decodeWord_encodeWord {i : Instr} (hwf : i.wf = true) : decodeWord (encodeWord i) = i := by
  obtain ⟨l, v, read, hrow⟩ := exists_rowOf i
  have hnum : (encodeWord i).toNat = encodeNat i := encodeWord_toNat (hrow.encodeNat_lt hwf)
  rw [hrow.decodes _ (by rw [hnum, hrow.encodes hwf]), hrow.readBack _ hwf hnum]

/-- Settles O1: the bytes of the word make up the word again, and every row reads its instructions back. -/
theorem decodeEncodeRoundTrip : Obligations.DecodeEncodeRoundTrip := by
  intro i rest hwf
  change Except.ok (decodeWord (wordOfBytes _ _ _ _), rest) = _
  rw [wordOfBytes_byteOfWord, decodeWord_encodeWord hwf]

/-- A word is the encoding of what it decodes to, but for its ignored bits. -/
theorem encodeNat_decodeWord (w : Word) : encodeNat (decodeWord w) + ignoredPart (decodeWord w) w = w.toNat := by
  obtain ⟨_, l, v, read, hrow, hw⟩ := exists_rowOf_word w
  rw [hrow.decodes w hw, hrow.number w hw]

theorem encodeWord_decodeWord_iff (w : Word) : encodeWord (decodeWord w) = w ↔ ignoredPart (decodeWord w) w = 0 := by
  have hsum := encodeNat_decodeWord w
  have hlt : encodeNat (decodeWord w) < 2 ^ 32 := by have := w.isLt; omega
  rw [← BitVec.toNat_inj, encodeWord_toNat hlt]
  omega

/-- Words that differ only in ignored bits are the same instruction (R72). -/
theorem decodeWord_of_agreeOutside {w w' : Word} {hi lo : Nat} (hign : ignoredField (decodeWord w) = some (hi, lo))
    (h : AgreeOutside hi lo w w') : decodeWord w' = decodeWord w := by
  obtain ⟨_, l, v, read, hrow, hw⟩ := exists_rowOf_word w
  rw [hrow.decodes w hw] at hign ⊢
  obtain ⟨hl, hread⟩ := hrow.ignores w hi lo hign
  rw [hrow.decodes w' (by rw [h.div_eq hl, hw]), hread w' h]

/-- Settles O2: by whether the row ignores bits, from the sum of the encoding and the ignored part. -/
theorem ignoredBitsAreTheOnlyOnesLost : Obligations.IgnoredBitsAreTheOnlyOnesLost := by
  intro w
  have hiff := encodeWord_decodeWord_iff w
  split
  next hign => exact hiff.mpr (ignoredPart_of_none hign w)
  next hi lo hign =>
    rw [ignoredPart_of_some hign] at hiff
    refine ⟨?_, fun w' habove hbelow => decodeWord_of_agreeOutside hign ⟨habove, hbelow⟩⟩
    rw [hiff, Nat.mul_eq_zero, or_iff_left (by positivity)]

/-- Settles O3: the row of the word's instruction holds the word, and no two rows of the tiling do. -/
theorem everyWordDecodesToItsOneRow : Obligations.EveryWordDecodesToItsOneRow := by
  intro w
  obtain ⟨_, l, v, read, hrow, hw⟩ := exists_rowOf_word w
  have hmem := hrow.mem w
  refine ⟨_, hmem, (OpcodeRow.holds_iff hmem w).mpr hw, by rw [hrow.decodes w hw], fun r' hr' hholds => ?_⟩
  exact opcodeTable_unique hr' hmem ((OpcodeRow.holds_iff hr' w).mp hholds) hw

/-- Settles O4: every entry of the decoder's tables reads a well-formed instruction. -/
theorem decodedInstructionsAreWellFormed : Obligations.DecodedInstructionsAreWellFormed := decodeWord_wf

/-- Settles O5: ten words, each decoded by evaluation. -/
theorem exampleWordsDecode : Obligations.ExampleWordsDecode := by
  unfold Obligations.ExampleWordsDecode
  decide

/-- Shifting a 12-bit field left by 4 and then right by 2, in 16 bits signed, gives 4 times its signed view (R67). -/
theorem toInt_shift_trick (f : BitVec 12) : (((f.setWidth 16) <<< 4).sshiftRight 2).toInt = 4 * f.toInt := by
  have hf := f.isLt
  have hshift : ((f.setWidth 16) <<< 4).toNat = f.toNat * 16 := by
    rw [BitVec.toNat_shiftLeft, BitVec.toNat_setWidth, Nat.shiftLeft_eq]
    omega
  rw [BitVec.toInt_sshiftRight, Int.shiftRight_eq_div_pow, BitVec.toInt_eq_toNat_cond, BitVec.toInt_eq_toNat_cond, hshift]
  split_ifs <;> omega

/-- Settles O6: SWAP's row read from the two fields, the shifts, and the range of a sign-extended field. -/
theorem swapOffsetIsTheShiftTrick : Obligations.SwapOffsetIsTheShiftTrick := by
  intro f g
  have hf := f.isLt
  have hg := g.isLt
  have hw : (0x01#8 ++ f ++ g).toNat = 0x01 * 2 ^ 24 + f.toNat * 2 ^ 12 + g.toNat := by
    rw [append_toNat, append_toNat]
    simp only [BitVec.toNat_ofNat]
    omega
  have hA : bits (0x01#8 ++ f ++ g) 23 12 = f.toNat := by rw [bits, hw]; omega
  have hB : bits (0x01#8 ++ f ++ g) 11 0 = g.toNat := by rw [bits, hw]; omega
  have hrange := sext_range (k := 12) (by decide) hf
  refine ⟨?_, by rw [toInt_shift_trick, sext_toNat], by omega, by omega⟩
  rw [(swap_row 0 0).decodes _ (by rw [hw]; omega), offsetField, offsetField, hA, hB]

end Sys2Proof
end

section
/-! ## The instruction cycle: when a step is taken, and what it runs (R90 to R94, R212) -/

namespace Sys2Proof

/-- A word written as opcode and low bits is read by the opcode's entry of the map (R61, R73). -/
theorem decodeWord_append_opcode (op : BitVec 4) (low : BitVec 28) :
    decodeWord (op ++ low) = opcodeMap.get op.toFin (op ++ low) := by
  have hquot : (op ++ low).toNat / 2 ^ 28 = op.toNat := by
    rw [append_toNat, mul_add_div_of_lt _ low.isLt]
  exact decodeWord_opcode op.toFin _ hquot

namespace Machine

open Sys2Proof.Claims

variable {s : State}

/-- The four bytes at PC decode to the fetched word's instruction, with no byte left over (R60, R92). -/
theorem State.decode_bytesAtPc (s : State) :
    decode [s.mem.read s.pc.toNat, s.mem.read (s.pc.toNat + 1), s.mem.read (s.pc.toNat + 2), s.mem.read (s.pc.toNat + 3)]
      = .ok (decodeWord s.fetchedWord, []) := rfl

/-- Settles O10: the four bytes at PC decode to what the step fetches, so `i` is the instruction it runs. -/
theorem stepRunsTheDecodedInstruction : Obligations.StepRunsTheDecodedInstruction := by
  intro s i hst hpc hdecode _
  rw [s.decode_bytesAtPc] at hdecode
  obtain rfl : decodeWord s.fetchedWord = i := congrArg Prod.fst (Except.ok.inj hdecode)
  exact step_of_fetchFits hst hpc

/-- A running state with no whole word at PC halts in the pre-check (R91). -/
theorem step_of_not_fetchFits (hst : s.status = .running) (hpc : s.pc.toNat + 4 > Config.N) :
    step s = .next (s.raise (.fetchBound s.pc)) := by
  have hfits : s.fetchFits = false := decide_eq_false (by omega)
  simp [step, hst, hfits]

/-- Emitting events and raising a cause is a halt with those events (R9, R205). -/
theorem haltsWith_emit_raise (s : State) (es : List Event) (c : Cause) : HaltsWith s ((s.emit es).raise c) c es s.host :=
  ⟨rfl, rfl, rfl, fun _ => rfl, rfl, rfl⟩

/-- Raising a cause is a halt that emits nothing (R205). -/
theorem halts_raise (s : State) (c : Cause) : Halts s (s.raise c) c :=
  ⟨rfl, rfl, rfl, fun _ => rfl, (List.append_nil s.trace).symm, rfl⟩

/-- Settles O11: the pre-check raises `FetchBound` on the state as it is. -/
theorem fetchPastMemoryHalts : Obligations.FetchPastMemoryHalts :=
  fun s hst hpc => ⟨_, step_of_not_fetchFits hst hpc, halts_raise s _⟩

/-- Settles O12: by the two terminal statuses. -/
theorem terminalStatesTakeNoStep : Obligations.TerminalStatesTakeNoStep := by
  intro s hst
  cases hstatus : s.status with
  | running => exact absurd hstatus hst
  | exited code => simp only [step, hstatus]
  | halted cause => simp only [step, hstatus]

@[simp] theorem State.retWith_false (s : State) (count : Nat) : s.retWith false count = s := rfl

@[simp] theorem State.dupWith_false (s : State) (off : Int) : s.dupWith false off = s := rfl

/-- Settles O47: opcodes 0xA and 0xC are the map's rows nopA and nopC, whose meaning is the identity, and an absent RET or
DUP is the identity too. -/
theorem unassignedOpcodesDoNothing : Obligations.UnassignedOpcodesDoNothing := by
  intro op low s
  refine ⟨fun hop => ?_, s.retWith_false, s.dupWith_false⟩
  rw [decodeWord_append_opcode]
  obtain rfl | rfl := hop
  · exact exec_eq_run .nopA s
  · exact exec_eq_run .nopC s

end Machine
end Sys2Proof
end

section
/-! ## The stack primitives and the redirect, against the statements' own words (R96, R97, R100) -/

namespace Sys2Proof.Machine

open Sys2Proof.Claims

variable {s : State}

theorem State.push_of_lt (v : Word) (h : s.sp.toNat < 4) :
    s.push v = s.raise (.memFault .stackOverflow ((s.sp.toNat : Int) - 4)) := if_pos h

theorem State.push_of_le (v : Word) (h : 4 ≤ s.sp.toNat) : s.push v = s.pushWord v := if_neg (Nat.not_lt.mpr h)

/-- The effect of Push where there is room is the statements' `Pushes`, with no event (R96). -/
theorem pushes_pushWord (v : Word) (h : 4 ≤ s.sp.toNat) : Pushes s (s.pushWord v) v [] s.host := by
  obtain ⟨hsp, hword, hframe⟩ := State.pushWord_frame v h
  refine ⟨rfl, hsp, hword, fun x hx => hframe x ?_, rfl, (List.append_nil s.trace).symm, rfl⟩
  rwa [Nat.sub_add_cancel h] at hx

/-- Settles O14: the two cases of Push, by whether SP has room for a word. -/
theorem pushPrimitive : Obligations.PushPrimitive := by
  refine fun s v => ⟨fun hlow => ?_, fun hroom => ?_⟩
  · rw [State.push_of_lt v hlow]
    exact halts_raise s _
  · rw [State.push_of_le v hroom]
    exact pushes_pushWord v hroom

/-- Settles O15: the pop reads the slot the push wrote, and adds back the 4 the push took from SP. -/
theorem popUndoesPush : Obligations.PopUndoesPush := by
  intro s v hroom
  rw [State.push_of_le v hroom]
  exact ⟨Memory.readWord_writeWord s.mem (s.sp - 4).toNat v, BitVec.sub_add_cancel s.sp 4⟩

/-- A target in `[0, N)` fits in PC, so PC holds its number; memory and the other fields stay (R100). -/
theorem redirectsTo_setPc {t : Int} (hlo : 0 ≤ t) (hhi : t < Config.N) : RedirectsTo s (s.setPc (wrap32 t)) t := by
  rw [RedirectsTo, if_pos ⟨hlo, hhi⟩]
  rw [Config.N_eq] at hhi
  exact ⟨wrap32_toNat hlo (by omega), rfl, fun _ => rfl, rfl, rfl, rfl⟩

/-- Settles O16: the two cases of Redirect, by whether the target is in range. -/
theorem redirectPrimitive : Obligations.RedirectPrimitive := by
  intro s t
  obtain ⟨hout, heq⟩ | ⟨hlo, hhi, heq⟩ := s.redirect_cases t
  · rw [heq, RedirectsTo, if_neg (by omega)]
    exact haltsWith_emit_raise s _ _
  · rw [heq]
    exact redirectsTo_setPc hlo hhi

end Sys2Proof.Machine
end

section
/-! ## Family 0x0 without the host: EXIT, SWAP, DEBUG and the reserved sub-opcodes (R111, R112, R115, R116) -/

namespace Sys2Proof

/-- The number above the low bits of a word written field by field. -/
theorem toNat_append_div {n m : Nat} (x : BitVec n) (low : BitVec m) : (x ++ low).toNat / 2 ^ m = x.toNat := by
  rw [append_toNat, mul_add_div_of_lt _ low.isLt]

/-- The number of the low bits of a word written field by field. -/
theorem toNat_append_mod {n m : Nat} (x : BitVec n) (low : BitVec m) : (x ++ low).toNat % 2 ^ m = low.toNat := by
  rw [append_toNat, Nat.mul_add_mod', Nat.mod_eq_of_lt low.isLt]

/-- `w[23:0]` of a word written as its top byte and 24 low bits (R70). -/
theorem bits_append_low24 (x : BitVec 8) (low : BitVec 24) : bits (x ++ low) 23 0 = low.toNat := by
  rw [bits_zero]
  exact toNat_append_mod x low

/-- A word of family 0x0 is read by the entry of its sub-opcode, whatever its low 24 bits (R74). -/
theorem decodeWord_misc_append (k : Fin 16) (low : BitVec 24) :
    decodeWord (BitVec.ofNat 8 k ++ low) = miscTable.get k (BitVec.ofNat 8 k ++ low) := by
  refine decodeWord_misc k _ ?_
  rw [toNat_append_div, BitVec.toNat_ofNat]
  omega

namespace Machine

open Sys2Proof.Claims

variable {s : State}

/-! ### EXIT and DEBUG -/

/-- Settles O17: EXIT's row reads the low byte signed, and its meaning sets STATUS alone. -/
theorem exitEndsTheRun : Obligations.ExitEndsTheRun := by
  intro junk imm8 s
  refine ⟨?_, _, exec_eq_run _ s, rfl, rfl, rfl, fun _ => rfl, rfl, rfl⟩
  have hrow : (0x00#8 ++ junk ++ imm8).toNat / 2 ^ 24 = 0 := by
    have hjunk := junk.isLt
    have himm := imm8.isLt
    rw [append_toNat, append_toNat]
    simp only [BitVec.toNat_ofNat]
    omega
  have hcode : bits (0x00#8 ++ junk ++ imm8) 7 0 = imm8.toNat := by
    rw [bits_zero]
    exact toNat_append_mod _ imm8
  rw [(exit_row 0).decodes _ hrow, hcode, sext_toNat]

/-- Settles O25: DEBUG's row reads the 24 low bits, and its meaning emits one event. -/
theorem debugOnlyReports : Obligations.DebugOnlyReports := by
  intro imm24 s
  refine ⟨?_, rfl, _, exec_eq_run _ s, rfl, rfl, fun _ => rfl, rfl, rfl, rfl⟩
  exact (decodeWord_misc_append 0xF imm24).trans (congrArg Instr.debug (bits_append_low24 _ imm24))

/-! ### The reserved sub-opcodes -/

/-- The sub-opcodes that R74 reserves. -/
abbrev reservedSubs : List (BitVec 4) := [0x2, 0x3, 0x6, 0x7, 0x8, 0x9, 0xA, 0xB, 0xC, 0xD, 0xE]

/-- The instruction the table holds for a reserved sub-opcode runs that sub-opcode's halt. -/
theorem operation_miscTable_reserved {sub : BitVec 4} (hsub : sub ∈ reservedSubs) (w : Word) :
    operation (miscTable.get sub.toFin w) = .reserved sub := by
  fin_cases hsub <;> rfl

/-- A word of family 0x0 written by opcode and sub-opcode is read by the sub-opcode's entry (R74). -/
theorem decodeWord_append_sub (sub : BitVec 4) (low : BitVec 24) :
    decodeWord (0x0#4 ++ sub ++ low) = miscTable.get sub.toFin (0x0#4 ++ sub ++ low) := by
  refine decodeWord_misc sub.toFin _ ?_
  rw [toNat_append_div, append_toNat]
  simp

/-- Settles O26: the table's entry of a reserved sub-opcode raises `IllegalMisc` with it, and so does an absent STINPUT. -/
theorem reservedMiscHalts : Obligations.ReservedMiscHalts := by
  refine ⟨fun sub hsub low s => ⟨s.raise (.illegalMisc sub), ?_, halts_raise s _⟩, fun _ s => ⟨_, rfl, halts_raise s _⟩⟩
  rw [exec_eq_run, decodeWord_append_sub, operation_miscTable_reserved hsub]
  rfl

/-! ### SWAP -/

/-- The words at two addresses are exchanged by the two writes of SWAP, where the words are the same or share no byte: the
second write then leaves the first as it is, or repeats it (R112). -/
theorem Memory.readWord_exchange (m : Memory) {a b : Nat} (h : a = b ∨ a + 4 ≤ b ∨ b + 4 ≤ a) :
    ((m.writeWord a (m.readWord b)).writeWord b (m.readWord a)).readWord a = m.readWord b ∧
    ((m.writeWord a (m.readWord b)).writeWord b (m.readWord a)).readWord b = m.readWord a := by
  refine ⟨?_, Memory.readWord_writeWord _ b _⟩
  rcases h with rfl | hapart
  · exact Memory.readWord_writeWord _ a _
  · rw [Memory.readWord_writeWord_of_apart _ b a _ hapart, Memory.readWord_writeWord]

/-- Settles O18: the addresses differ by a multiple of 4, so the words are the same or share no byte. -/
theorem swapExchangesTwoWords : Obligations.SwapExchangesTwoWords := by
  intro fA fB s
  refine ⟨?_, fun a b ha hb haN hbN => ⟨_, exec_eq_run _ s, ?_⟩, fun hout => ⟨_, exec_eq_run _ s, ?_⟩⟩
  · rw [(swapOffsetIsTheShiftTrick fA fB).1, sext_toNat, sext_toNat]
  · obtain ⟨-, -, heq⟩ | ⟨hout, -⟩ := s.swapWords_cases (s.spRel (4 * fA.toInt)) (s.spRel (4 * fB.toInt))
    · rw [heq, State.spRel, State.spRel, ← ha, ← hb, Int.toNat_natCast, Int.toNat_natCast]
      obtain ⟨hreadA, hreadB⟩ := s.mem.readWord_exchange (a := a) (b := b) (by omega)
      refine ⟨hreadA, hreadB, fun x hxa hxb => ?_, rfl, rfl, rfl, rfl, rfl⟩
      rw [State.setMem_mem, Memory.read_writeWord_of_outside _ b _ hxb, Memory.read_writeWord_of_outside _ a _ hxa]
    · rw [State.spRel, State.spRel, ← ha, ← hb] at hout
      omega
  · obtain ⟨ha, hb, -⟩ | ⟨-, heq⟩ := s.swapWords_cases (s.spRel (4 * fA.toInt)) (s.spRel (4 * fB.toInt))
    · exact absurd hout (not_or.mpr ⟨not_not_intro ha, not_not_intro hb⟩)
    · rw [heq]
      exact ⟨rfl, rfl, fun _ => rfl, rfl, rfl, rfl⟩

end Machine
end Sys2Proof
end

section
/-! ## The answers of the host: INPUT and STINPUT (R113, R114) -/

namespace Sys2Proof.Machine

open Sys2Proof.Claims

variable {s : State}

/-! ### INPUT -/

theorem execInput_of_nextWord {v : Word} {port : HostPort} (h : s.host.nextWord = some (v, port)) :
    execInput s = .next ((s.setHost port).takeWord v) := by
  simp only [execInput, h]

theorem execInput_completes {v : Word} {port : HostPort} (h : s.host.nextWord = some (v, port)) {P : State → Prop}
    (hP : P ((s.setHost port).takeWord v)) : Completes .input s P :=
  ⟨_, (exec_eq_run .input s).trans (execInput_of_nextWord h), hP⟩

/-- Events and a new port before a push with room: the whole is one `Pushes` (R96, R113). -/
theorem pushes_emit_pushWord (port : HostPort) (es : List Event) (v : Word) (h : 4 ≤ s.sp.toNat) :
    Pushes s (((s.setHost port).emit es).pushWord v) v es port := by
  obtain ⟨hpc, hsp, hword, hframe, hstatus, -, hhost⟩ :=
    pushes_pushWord (s := (s.setHost port).emit es) v h
  exact ⟨hpc, hsp, hword, hframe, hstatus, rfl, hhost⟩

/-- Settles O19: the two events and the answered port come before the two cases of Push. -/
theorem inputPushesTheHostsWord : Obligations.InputPushesTheHostsWord := by
  intro s v port hanswer
  refine ⟨fun junk => decodeWord_misc_append 0x4 junk, fun hroom => execInput_completes hanswer ?_,
    fun hlow => execInput_completes hanswer ?_⟩
  · rw [State.takeWord, State.push_of_le (s := (s.setHost port).emit _) v hroom]
    exact pushes_emit_pushWord port _ v hroom
  · rw [State.takeWord, State.push_of_lt (s := (s.setHost port).emit _) v hlow]
    exact haltsWith_emit_raise (s.setHost port) _ _

/-! ### STINPUT -/

theorem stinputWith_of_nextLine {line : List Byte} {port : HostPort} (max : Nat)
    (h : s.host.nextLine = some (line, port)) : stinputWith true max s = .next ((s.setHost port).takeLine max line) := by
  simp only [stinputWith, h, if_true]

theorem execStinput_completes {line : List Byte} {port : HostPort} {max : Nat}
    (h : s.host.nextLine = some (line, port)) {P : State → Prop}
    (hP : P ((s.setHost port).takeLine max line)) : Completes (.stinput max) s P :=
  ⟨_, (exec_eq_run (.stinput max) s).trans (stinputWith_of_nextLine max h), hP⟩

/-- Settles O21: the check for room comes before any push, and after the line is consumed. -/
theorem stinputWithoutRoomPushesNothing : Obligations.StinputWithoutRoomPushesNothing := by
  intro max s line port hanswer hlow
  refine execStinput_completes hanswer ?_
  obtain ⟨-, heq⟩ | ⟨hroom, -⟩ := (s.setHost port).takeLine_cases max line
  · rw [heq, Nat.cast_mul]
    exact haltsWith_emit_raise (s.setHost port) _ _
  · exact absurd hlow (Nat.not_lt.mpr hroom)

/-- Memory holds the chunks of the string from address `a` up, chunk 0 first (R114). -/
def HoldsChunks (m : Memory) (a : Nat) (str : List Byte) : Prop :=
  ∀ i, i < chunkCount str.length → m.readWord (a + 4 * i) = chunkWord str i

theorem length_chunksInPushOrder (str : List Byte) : (chunksInPushOrder str).length = chunkCount str.length := by
  simp [chunksInPushOrder]

/-- The last chunk is pushed first (R114). -/
theorem getElem_chunksInPushOrder (str : List Byte) {i : Nat} (h : i < (chunksInPushOrder str).length) :
    (chunksInPushOrder str)[i] = chunkWord str (chunkCount str.length - 1 - i) := by
  simp [chunksInPushOrder]

/-- Pushed from the last to the first, the chunks lie in order from the new SP up (R114). -/
theorem State.pushAll_holdsChunks (str : List Byte) (hroom : 4 * chunkCount str.length ≤ s.sp.toNat) :
    HoldsChunks (s.pushAll (chunksInPushOrder str)).mem (s.pushAll (chunksInPushOrder str)).sp.toNat str := by
  have hlen := length_chunksInPushOrder str
  obtain ⟨-, -, -, -, hsp, hwords, -⟩ := State.pushAll_frame (chunksInPushOrder str) s (by rwa [hlen])
  intro i hi
  have hword := hwords (chunkCount str.length - 1 - i) (by omega)
  rw [getElem_chunksInPushOrder] at hword
  convert hword using 2 <;> omega

/-- What STINPUT leaves where there is room: the chunks at the new SP, the event and the port, and the frame (R114). -/
theorem State.takeLine_frame {max : Nat} {line : List Byte} (hroom : 4 * chunkCount (line.take max).length ≤ s.sp.toNat) :
    (s.takeLine max line).pc = s.pc ∧ (s.takeLine max line).status = s.status ∧
    (s.takeLine max line).trace = s.trace ++ [.inLine line] ∧ (s.takeLine max line).host = s.host ∧
    (s.takeLine max line).sp.toNat + 4 * chunkCount (line.take max).length = s.sp.toNat ∧
    HoldsChunks (s.takeLine max line).mem (s.takeLine max line).sp.toNat (line.take max) ∧
    ∀ x, x < (s.takeLine max line).sp.toNat ∨ s.sp.toNat ≤ x → (s.takeLine max line).mem.read x = s.mem.read x := by
  obtain ⟨hlow, -⟩ | ⟨-, heq⟩ := s.takeLine_cases max line
  · omega
  · have hlen := length_chunksInPushOrder (line.take max)
    obtain ⟨hpc, hstatus, htrace, hhost, hsp, -, hframe⟩ :=
      State.pushAll_frame (chunksInPushOrder (line.take max)) (s.emit [.inLine line]) (by rwa [hlen])
    rw [hlen] at hsp
    rw [heq]
    exact ⟨hpc, hstatus, htrace, hhost, hsp, State.pushAll_holdsChunks _ hroom, hframe⟩

/-- The four bytes of a word in memory (R40). -/
theorem Memory.bytesOfWord_readWord (m : Memory) (a : Nat) :
    bytesOfWord (m.readWord a) = [m.read a, m.read (a + 1), m.read (a + 2), m.read (a + 3)] :=
  bytesOfWord_wordOfBytes _ _ _ _

/-- The flag byte of chunk `i`, which tells the last chunk from the others (R114). -/
def chunkFlag (str : List Byte) (i : Nat) : Byte := if i + 1 = ceilThird str.length then 0x00 else 0x01

/-- A chunk of the machine, in the statements' own words: three places and the flag (R114). -/
theorem chunkWord_eq (str : List Byte) (i : Nat) :
    chunkWord str i = wordOfBytes (chunkByte str i 0) (chunkByte str i 1) (chunkByte str i 2) (chunkFlag str i) := rfl

theorem bytesOfWord_chunkWord (str : List Byte) (i : Nat) :
    bytesOfWord (chunkWord str i) = [chunkByte str i 0, chunkByte str i 1, chunkByte str i 2, chunkFlag str i] := by
  rw [chunkWord_eq, bytesOfWord_wordOfBytes]

/-- The bytes in memory of a chunk that memory holds (R114). -/
theorem HoldsChunks.read {m : Memory} {a : Nat} {str : List Byte} (h : HoldsChunks m a str) {i : Nat}
    (hi : i < ceilThird str.length) :
    (∀ c, c < 3 → m.read (a + 4 * i + c) = chunkByte str i c) ∧ m.read (a + 4 * i + 3) = chunkFlag str i := by
  have hbytes := congrArg bytesOfWord (h i hi)
  rw [Memory.bytesOfWord_readWord, bytesOfWord_chunkWord] at hbytes
  simp only [List.cons.injEq, and_true] at hbytes
  obtain ⟨h0, h1, h2, hflag⟩ := hbytes
  refine ⟨fun c hc => ?_, hflag⟩
  interval_cases c
  · exact h0
  · exact h1
  · exact h2

/-- Settles O20: the frame of the pushes, and the bytes of the chunks they leave. -/
theorem stinputPacksTheHostsLine : Obligations.StinputPacksTheHostsLine := by
  intro max s line port hanswer hroom
  refine ⟨fun m => ?_, execStinput_completes hanswer ?_⟩
  · exact (decodeWord_misc_append 0x5 m).trans (congrArg Instr.stinput (bits_append_low24 _ m))
  · obtain ⟨hpc, hstatus, htrace, hhost, hsp, hchunks, hframe⟩ := State.takeLine_frame (s := s.setHost port) hroom
    refine ⟨hpc, hstatus, htrace, hhost, hsp, fun i hi => hchunks.read hi, fun x hx => hframe x ?_⟩
    rw [State.setHost_sp] at hsp ⊢
    omega

/-! ### PRINTS over the chunks of a string -/

/-- PRINTS emits the bytes that are neither 0x00 nor 0x01 and goes on with what follows them (R190). -/
theorem printBytes_chars_append {cs : List Byte} (hcs : ∀ b ∈ cs, 2 ≤ b.toNat) (bs : List Byte) :
    printBytes (cs ++ bs) = (cs.map .char ++ (printBytes bs).1, (printBytes bs).2) := by
  induction cs with
  | nil => rfl
  | cons b cs ih =>
    obtain ⟨hb, htail⟩ := List.forall_mem_cons.mp hcs
    rw [List.cons_append, printBytes_cons, if_neg (by bv_omega), if_neg (by bv_omega), ih htail]
    rfl

/-- Chunk 0 is the last chunk where it holds the whole string (R114). -/
theorem chunkFlag_zero {str : List Byte} (hne : str ≠ []) : chunkFlag str 0 = if str.length ≤ 3 then 0x00 else 0x01 := by
  have hpos : 0 < str.length := List.length_pos_iff.mpr hne
  have hlast : 0 + 1 = ceilThird str.length ↔ str.length ≤ 3 := by
    rw [ceilThird]
    omega
  simp only [chunkFlag, hlast]

/-- Chunk 0 of a string with no byte 0x00 or 0x01 prints the string's first three bytes, and its flag ends the print where it
is the last chunk (R114, R190). -/
theorem printBytes_chunkWord_zero {str : List Byte} (hne : str ≠ []) (hchars : ∀ b ∈ str, 2 ≤ b.toNat) :
    printBytes (bytesOfWord (chunkWord str 0)) = ((str.take 3).map .char, decide (str.length ≤ 3)) := by
  rw [bytesOfWord_chunkWord, chunkFlag_zero hne]
  match str with
  | [] => exact absurd rfl hne
  | [_] => exact printBytes_chars_append hchars [0x01, 0x01, 0x00]
  | [_, _] => exact printBytes_chars_append hchars [0x01, 0x00]
  | [_, _, _] => exact printBytes_chars_append hchars [0x00]
  | b0 :: b1 :: b2 :: b3 :: rest =>
    exact printBytes_chars_append (cs := [b0, b1, b2]) (fun b hb => hchars b (List.mem_append_left (b3 :: rest) hb)) [0x01]

/-- The chunks of a string after its first are those of the string without its first three bytes (R114). -/
theorem chunkWord_succ (str : List Byte) (h : 3 ≤ str.length) (i : Nat) : chunkWord str (i + 1) = chunkWord (str.drop 3) i := by
  have hplace (c : Nat) : chunkByte str (i + 1) c = chunkByte (str.drop 3) i c := by
    simp only [chunkByte, List.getD_eq_getElem?_getD, List.getElem?_drop]
    congr 2
    omega
  have hflag : chunkFlag str (i + 1) = chunkFlag (str.drop 3) i := by
    have hlast : i + 1 + 1 = ceilThird str.length ↔ i + 1 = ceilThird (str.drop 3).length := by
      rw [List.length_drop, ceilThird, ceilThird]
      omega
    simp only [chunkFlag, hlast]
  rw [chunkWord_eq, chunkWord_eq, hplace, hplace, hplace, hflag]

theorem HoldsChunks.drop {m : Memory} {a : Nat} {str : List Byte} (h : HoldsChunks m a str) (hlen : 3 ≤ str.length) :
    HoldsChunks m (a + 4) (str.drop 3) := by
  intro i hi
  rw [List.length_drop] at hi
  rw [← chunkWord_succ str hlen, ← h (i + 1) (by rw [chunkCount] at hi ⊢; omega)]
  congr 1
  omega

/-- PRINTS at the chunks of a string with no byte 0x00 or 0x01 emits the string, chunk by chunk (R114, R190). -/
theorem printWords_of_holdsChunks {m : Memory} {fuel a : Nat} {str : List Byte} (hchunks : HoldsChunks m a str)
    (hne : str ≠ []) (hchars : ∀ b ∈ str, 2 ≤ b.toNat) (hN : a + 4 * chunkCount str.length ≤ Config.N)
    (hfuel : chunkCount str.length ≤ fuel) : printWords m fuel a = str.map .char := by
  have hpos : 0 < str.length := List.length_pos_iff.mpr hne
  induction fuel generalizing a str with
  | zero => rw [chunkCount] at hfuel; omega
  | succ fuel ih =>
    have hcount : 0 < chunkCount str.length := by rw [chunkCount]; omega
    have hword : m.readWord a = chunkWord str 0 := hchunks 0 hcount
    rw [printWords_succ, if_neg (by omega), hword, printBytes_chunkWord_zero hne hchars]
    by_cases hlast : str.length ≤ 3
    · simp [hlast, List.take_of_length_le hlast]
    · have hrest : chunkCount (str.drop 3).length + 1 = chunkCount str.length := by
        rw [List.length_drop, chunkCount, chunkCount]
        omega
      have htail : printWords m fuel (a + 4) = (str.drop 3).map .char :=
        ih (hchunks.drop (by omega)) (by simpa using hlast) (fun b hb => hchars b (List.mem_of_mem_drop hb)) (by omega)
          (by omega) (by rw [List.length_drop]; omega)
      simp only [hlast, htail, decide_false, Bool.false_eq_true, if_false]
      rw [← List.map_append, List.take_append_drop]

/-- PRINTS at SP prints from SP itself, which is never negative (R190). -/
theorem State.printString_zero (s : State) : s.printString 0 = s.emit (printWords s.mem (Config.N / 4) s.sp.toNat) := by
  have hrel : s.spRel 0 = s.sp.toNat := Int.add_zero _
  obtain ⟨hneg, -⟩ | ⟨-, heq⟩ := s.printString_cases 0
  · omega
  · rw [heq, hrel, Int.toNat_natCast]

/-- Settles O22: the chunks STINPUT leaves at SP print as the string they were packed from. -/
theorem printsReadsBackWhatStinputPacked : Obligations.PrintsReadsBackWhatStinputPacked := by
  intro max s line port hanswer hspN hroom hne hchars
  refine execStinput_completes hanswer ⟨_, exec_eq_run (.prints 0) _, ?_⟩
  obtain ⟨-, -, htrace, -, hsp, hchunks, -⟩ := State.takeLine_frame (s := s.setHost port) hroom
  rw [State.setHost_sp] at hsp
  have hprint := printWords_of_holdsChunks (fuel := Config.N / 4) hchunks hne hchars (by omega) (by omega)
  rw [State.printString_zero, State.emit_trace, hprint, htrace, List.append_assoc]
  rfl

end Sys2Proof.Machine
end

section
/-! ## The stack instructions: POP, DUP and PUSH (R130, R131, R132) -/

namespace Sys2Proof

/-- `w[27:0]` of a word written as its opcode and 28 low bits (R68). -/
theorem bits_append_low28 (op : BitVec 4) (low : BitVec 28) : bits (op ++ low) 27 0 = low.toNat := by
  rw [bits_zero]
  exact toNat_append_mod op low

/-- A word written as opcode, 26-bit field and ignored bits is read by the opcode's entry of the map (R61, R64, R73). -/
theorem decodeWord_append_field26 (op : BitVec 4) (f : BitVec 26) (g : BitVec 2) :
    decodeWord (op ++ f ++ g) = opcodeMap.get op.toFin (op ++ f ++ g) := by
  refine decodeWord_opcode op.toFin _ ?_
  have hf := f.isLt
  have hg := g.isLt
  rw [append_toNat, append_toNat, BitVec.val_toFin]
  omega

/-- The offset of a 26-bit field is 4 times its signed view, whatever the opcode and the ignored bits (R64). -/
theorem offsetField_append_field26 (op : BitVec 4) (f : BitVec 26) (g : BitVec 2) :
    offsetField (op ++ f ++ g) 27 2 = 4 * f.toInt := by
  refine offsetField_eq (k := 26) rfl f ?_
  rw [bits, toNat_append_div]
  exact toNat_append_mod op f

namespace Machine

open Sys2Proof.Claims

variable {s : State}

/-! ### POP -/

/-- Settles O27: POP's row reads the 28 low bits, and its meaning sets SP alone, to a number that fits in it. -/
theorem popMovesSpClamped : Obligations.PopMovesSpClamped := by
  intro n s
  refine ⟨?_, _, exec_eq_run _ s, ?_, rfl, fun _ => rfl, rfl, rfl, rfl⟩
  · exact (decodeWord_append_opcode 0x1 n).trans (congrArg Instr.pop (bits_append_low28 0x1 n))
  · have hzero : n.toNat = 0 ↔ n = 0 := BitVec.toNat_inj (y := 0)
    rw [State.setSp_sp, wrap32_min_toNat, popCount]
    simp only [hzero]

/-! ### DUP -/

/-- An integer that is the address of a whole word in memory is in bounds (R99). -/
theorem inBounds_of_eq_natCast {t : Int} {a : Nat} (ht : (a : Int) = t) (ha : a + 4 ≤ Config.N) : inBounds t := by
  rw [← ht]
  exact ⟨Int.natCast_nonneg a, by exact_mod_cast ha⟩

/-- DUP at the address of a whole word in memory is a push of that word (R131). -/
theorem dup_completes_push {off : Int} {a : Nat} (haddr : (a : Int) = s.spRel off) (ha : a + 4 ≤ Config.N) {P : State → Prop}
    (hP : P (s.push (s.mem.readWord a))) : Completes (.dup off) s P := by
  refine ⟨_, exec_eq_run _ s, ?_⟩
  obtain ⟨-, heq⟩ | ⟨hout, -⟩ := s.dupWith_cases off
  · rwa [heq, ← haddr, Int.toNat_natCast]
  · exact absurd (inBounds_of_eq_natCast haddr ha) hout

/-- DUP at an address out of bounds faults, whatever SP (R131). -/
theorem dup_completes_badAddress {off : Int} (hout : ¬ inBounds (s.spRel off)) :
    Completes (.dup off) s fun t => Halts s t (.memFault .badAddress (s.spRel off)) := by
  refine ⟨_, exec_eq_run _ s, ?_⟩
  obtain ⟨hin, -⟩ | ⟨-, heq⟩ := s.dupWith_cases off
  · exact absurd hin hout
  · rw [heq]
    exact halts_raise s _

/-- Settles O28: DUP's row reads the 26-bit field; where the address is in bounds the two cases are those of Push. -/
theorem dupPushesTheAddressedWord : Obligations.DupPushesTheAddressedWord := by
  intro f s
  refine ⟨fun g => ?_, fun a haddr ha hroom => ?_, fun a haddr ha hlow => ?_, dup_completes_badAddress, s.dupWith_false _⟩
  · exact (decodeWord_append_field26 0xB f g).trans (congrArg Instr.dup (offsetField_append_field26 0xB f g))
  · exact dup_completes_push haddr ha ((pushPrimitive s _).2 hroom)
  · exact dup_completes_push haddr ha ((pushPrimitive s _).1 hlow)

/-! ### PUSH -/

/-- PUSH's pattern with PUSH_SEXT off: the four top bits are clear (R132). -/
theorem widenImm28_false (imm28 : BitVec 28) : widenImm28 false imm28.toNat = 0x0#4 ++ imm28 := by
  have himm := imm28.isLt
  have hval := wrap32_toNat (t := imm28.toNat) (by omega) (by omega)
  apply BitVec.eq_of_toNat_eq
  rw [append_toNat, BitVec.toNat_ofNat, Nat.zero_mod, Nat.zero_mul, Nat.zero_add]
  exact_mod_cast hval

/-- PUSH's pattern with PUSH_SEXT on: bit 27 fills the four top bits (R132). -/
theorem widenImm28_true (imm28 : BitVec 28) : widenImm28 true imm28.toNat = imm28.signExtend 32 := by
  simp only [widenImm28, if_true, sext_toNat, wrap32, BitVec.signExtend]

/-- Settles O29: PUSH's row reads the 28 low bits, PUSH_SEXT is off, and the two cases are those of Push. -/
theorem pushPushesItsPattern : Obligations.PushPushesItsPattern := by
  intro imm28 s
  have hrun : exec (.push imm28.toNat) s = .next (s.push (0x0#4 ++ imm28)) := by
    rw [← widenImm28_false]
    exact exec_eq_run _ s
  refine ⟨?_, fun hroom => ⟨_, hrun, (pushPrimitive s _).2 hroom⟩, fun hlow => ⟨_, hrun, (pushPrimitive s _).1 hlow⟩,
    widenImm28_true imm28⟩
  exact (decodeWord_append_opcode 0xF imm28).trans (congrArg Instr.push (bits_append_low28 0xF imm28))

end Machine
end Sys2Proof
end

section
/-! ## Arithmetic: the two families' decoding and common parts, and their functions (R140 to R156) -/

namespace Sys2Proof

/-- The top byte of a word written as opcode, sub-opcode and low bits (R61, R71). -/
theorem toNat_append_sub_div (op sub : BitVec 4) (low : BitVec 24) :
    (op ++ sub ++ low).toNat / 2 ^ 24 = op.toNat * 2 ^ 4 + sub.toNat := by
  rw [toNat_append_div, append_toNat]

/-- A word of family 0x2 is read by the entry of its sub-opcode, whatever its low 24 bits (R75, R140). -/
theorem decodeWord_binary_append (sub : BitVec 4) (low : BitVec 24) :
    decodeWord (0x2#4 ++ sub ++ low) = binaryTable.get sub.toFin (0x2#4 ++ sub ++ low) :=
  decodeWord_binary sub.toFin _ (toNat_append_sub_div 0x2#4 sub low)

/-- A word of family 0x3 is read by the entry of its sub-opcode, whatever its low 24 bits (R76, R153). -/
theorem decodeWord_unary_append (sub : BitVec 4) (low : BitVec 24) :
    decodeWord (0x3#4 ++ sub ++ low) = unaryTable.get sub.toFin (0x3#4 ++ sub ++ low) :=
  decodeWord_unary sub.toFin _ (toNat_append_sub_div 0x3#4 sub low)

/-- `wrap32` is reduction modulo `2^32` (R7). -/
theorem wrap32_toNat_emod (z : Int) : ((wrap32 z).toNat : Int) = z % 2 ^ 32 := by
  rw [wrap32, BitVec.toNat_ofInt, Int.toNat_of_nonneg (Int.emod_nonneg z (by norm_num))]
  rfl

namespace Machine

open Sys2Proof.Claims

/-! ### The common parts -/

section CommonParts

variable {i : Instr} {f : Word → Word → Word} {g : Word → Word}

/-- An instruction that runs the binary operation of `f` computes `f` (R140). -/
theorem computesBinary_of_operation (hop : operation i = .binary f) : ComputesBinary i f := by
  intro s hroom
  refine ⟨s.binaryOp f, by rw [exec_eq_run, hop]; rfl, ?_⟩
  obtain ⟨hlow, -⟩ | ⟨-, hlow, -⟩ | ⟨-, heq⟩ := s.binaryOp_cases f
  · omega
  · omega
  · rw [heq]
    exact ⟨rfl, State.sp_add_toNat (by omega), Memory.readWord_writeWord s.mem _ _,
      fun x hx => Memory.read_writeWord_of_outside s.mem _ _ hx, rfl, rfl, rfl⟩

/-- No right operand: the fault names SP, and nothing is popped (R140). -/
theorem binary_halts_without_right (hop : operation i = .binary f) {s : State} (hempty : s.sp.toNat + 4 > Config.N) :
    Completes i s fun t => Halts s t (.memFault .stackUnderflow s.sp.toNat) := by
  refine ⟨s.binaryOp f, by rw [exec_eq_run, hop]; rfl, ?_⟩
  obtain ⟨-, heq⟩ | ⟨hright, -, -⟩ | ⟨hroom, -⟩ := s.binaryOp_cases f
  · rw [heq]
    exact halts_raise s _
  · omega
  · omega

/-- A right operand and no left one: the fault names `SP + 4`, and the right operand is not popped (R140). -/
theorem binary_halts_without_left (hop : operation i = .binary f) {s : State} (hright : s.sp.toNat + 4 ≤ Config.N)
    (hleft : s.sp.toNat + 8 > Config.N) :
    Completes i s fun t => Halts s t (.memFault .stackUnderflow (s.sp.toNat + 4)) := by
  refine ⟨s.binaryOp f, by rw [exec_eq_run, hop]; rfl, ?_⟩
  obtain ⟨hempty, -⟩ | ⟨-, -, heq⟩ | ⟨hroom, -⟩ := s.binaryOp_cases f
  · omega
  · rw [heq]
    exact halts_raise s _
  · omega

/-- An instruction that runs the unary operation of `g` computes `g` (R153). -/
theorem computesUnary_of_operation (hop : operation i = .unary g) : ComputesUnary i g := by
  intro s hroom
  refine ⟨s.unaryOp g, by rw [exec_eq_run, hop]; rfl, ?_⟩
  obtain ⟨hempty, -⟩ | ⟨-, heq⟩ := s.unaryOp_cases g
  · omega
  · rw [heq]
    exact ⟨rfl, rfl, Memory.readWord_writeWord s.mem _ _, fun x hx => Memory.read_writeWord_of_outside s.mem _ _ hx,
      rfl, rfl, rfl⟩

/-- No operand: the fault names SP (R153). -/
theorem unary_halts_on_empty (hop : operation i = .unary g) {s : State} (hempty : s.sp.toNat + 4 > Config.N) :
    Completes i s fun t => Halts s t (.memFault .stackUnderflow s.sp.toNat) := by
  refine ⟨s.unaryOp g, by rw [exec_eq_run, hop]; rfl, ?_⟩
  obtain ⟨-, heq⟩ | ⟨hroom, -⟩ := s.unaryOp_cases g
  · rw [heq]
    exact halts_raise s _
  · omega

end CommonParts

/-- Each listed instruction is the table's entry of its sub-opcode, and its operation is a binary one (R75, R140). -/
theorem binaryInstrs_entry {p : Instr × Nat} (hp : p ∈ binaryInstrs) :
    (∀ w, binaryTable.get (BitVec.ofNat 4 p.2).toFin w = p.1) ∧ ∃ f, operation p.1 = .binary f := by
  fin_cases hp <;> exact ⟨fun _ => rfl, _, rfl⟩

/-- Settles O30: every listed instruction runs the common part of the binary instructions with a function of its own. -/
theorem binaryInstructionsTakeTwoWords : Obligations.BinaryInstructionsTakeTwoWords := by
  intro p hp
  obtain ⟨hentry, f, hop⟩ := binaryInstrs_entry hp
  exact ⟨fun junk => (decodeWord_binary_append _ junk).trans (hentry _), ⟨f, computesBinary_of_operation hop⟩,
    fun _ => ⟨binary_halts_without_right hop, binary_halts_without_left hop⟩⟩

/-! ### The unrecognized sub-opcodes -/

/-- The sub-opcodes that R75 leaves unrecognized. -/
abbrev unrecognizedBinarySubs : List (BitVec 4) := [0xB, 0xC, 0xD, 0xE, 0xF]

/-- The sub-opcodes that R76 leaves unrecognized. -/
abbrev unrecognizedUnarySubs : List (BitVec 4) :=
  [0x2, 0x3, 0x4, 0x5, 0x6, 0x7, 0x8, 0x9, 0xA, 0xB, 0xC, 0xD, 0xE, 0xF]

theorem mem_unrecognizedBinarySubs : ∀ sub : BitVec 4, 0xB ≤ sub.toNat → sub ∈ unrecognizedBinarySubs := by decide

theorem mem_unrecognizedUnarySubs : ∀ sub : BitVec 4, 0x2 ≤ sub.toNat → sub ∈ unrecognizedUnarySubs := by decide

/-- The instruction the binary table holds for an unrecognized sub-opcode runs nothing (R152). -/
theorem operation_binaryTable_unrecognized {sub : BitVec 4} (hsub : sub ∈ unrecognizedBinarySubs) (w : Word) :
    operation (binaryTable.get sub.toFin w) = .nop := by
  fin_cases hsub <;> rfl

/-- The instruction the unary table holds for an unrecognized sub-opcode runs nothing (R156). -/
theorem operation_unaryTable_unrecognized {sub : BitVec 4} (hsub : sub ∈ unrecognizedUnarySubs) (w : Word) :
    operation (unaryTable.get sub.toFin w) = .nop := by
  fin_cases hsub <;> rfl

/-- Settles O36: the two families' tables hold no-ops for these sub-opcodes, and a no-op answers the state it is given. -/
theorem unrecognizedArithmeticDoesNothing : Obligations.UnrecognizedArithmeticDoesNothing := by
  intro op sub low s hsub
  have hnop : operation (decodeWord (op ++ sub ++ low)) = .nop := by
    obtain ⟨rfl, hsub⟩ | ⟨rfl, hsub⟩ := hsub
    · rw [decodeWord_binary_append, operation_binaryTable_unrecognized (mem_unrecognizedBinarySubs sub hsub)]
    · rw [decodeWord_unary_append, operation_unaryTable_unrecognized (mem_unrecognizedUnarySubs sub hsub)]
  rw [exec_eq_run, hnop]
  rfl

/-! ### ADD, SUB, MUL -/

/-- Settles O31: the three functions are `wrap32` of the integer result. -/
theorem addSubMulWrap : Obligations.AddSubMulWrap :=
  ⟨decodeWord_binary 0x0 _ rfl, decodeWord_binary 0x1 _ rfl, decodeWord_binary 0x2 _ rfl, addWord, subWord, mulWord,
    computesBinary_of_operation rfl, computesBinary_of_operation rfl, computesBinary_of_operation rfl,
    fun _ _ => ⟨wrap32_toNat_emod _, wrap32_toNat_emod _, wrap32_toNat_emod _⟩⟩

/-! ### DIV -/

theorem divWord_zero (signed : Bool) (l : Word) : divWord signed l 0 = 0 := rfl

theorem toNat_ne_zero {r : Word} (hr : r ≠ 0) : r.toNat ≠ 0 := (BitVec.toNat_inj (y := 0)).not.mpr hr

/-- Signed DIV by a nonzero divisor wraps the truncated quotient (R144). -/
theorem divWord_true {r : Word} (hr : r ≠ 0) (l : Word) : divWord true l r = wrap32 (l.toInt.tdiv r.toInt) := by
  simp [divWord, toNat_ne_zero hr]

/-- Signed DIV by a nonzero divisor is the library's signed division, which wraps its one overflow too (R144). -/
theorem divWord_true_eq_sdiv {r : Word} (hr : r ≠ 0) (l : Word) : divWord true l r = l.sdiv r := by
  apply BitVec.eq_of_toInt_eq
  rw [divWord_true hr, wrap32, BitVec.toInt_ofInt, BitVec.toInt_sdiv]

/-- Unsigned DIV by a nonzero divisor is the library's unsigned division (R144). -/
theorem divWord_false {r : Word} (hr : r ≠ 0) (l : Word) : divWord false l r = l / r := by
  rw [BitVec.udiv_def, ← BitVec.ofInt_natCast]
  simp [divWord, toNat_ne_zero hr, wrap32]

/-- Settles O32: DIV is the library's division, whose quotient is the true one but for the one overflow. -/
theorem divTruncatesAndNeverFaults : Obligations.DivTruncatesAndNeverFaults := by
  refine ⟨decodeWord_binary 0x3 _ rfl, computesBinary_of_operation rfl, fun l r =>
    ⟨?_, fun hr hov => ?_, fun hl hr => ?_, fun hr => ?_⟩⟩
  · rintro rfl
    exact ⟨divWord_zero true l, divWord_zero false l⟩
  · rw [divWord_true_eq_sdiv hr]
    refine BitVec.toInt_sdiv_of_ne_or_ne l r (not_and_or.mp fun ⟨hl, hr⟩ => hov ?_)
    subst hl hr
    decide
  · have hr0 : r ≠ 0 := by
      rintro rfl
      exact absurd hr (by decide)
    rw [divWord_true_eq_sdiv hr0, BitVec.toInt_sdiv, hl, hr]
    rfl
  · rw [divWord_false hr, BitVec.toNat_udiv]

/-! ### MOD -/

theorem modWord_zero (signed : Bool) (l : Word) : modWord signed l 0 = 0 := rfl

/-- Signed MOD by a nonzero divisor wraps what the truncated quotient leaves (R145). -/
theorem modWord_true {r : Word} (hr : r ≠ 0) (l : Word) :
    modWord true l r = wrap32 (l.toInt - r.toInt * l.toInt.tdiv r.toInt) := by
  simp [modWord, toNat_ne_zero hr]

/-- The remainder of the truncated quotient is a signed word, so nothing wraps (R145). -/
theorem modWord_true_toInt {r : Word} (hr : r ≠ 0) (l : Word) : (modWord true l r).toInt = l.toInt.tmod r.toInt := by
  have hword : modWord true l r = l.srem r := by
    rw [modWord_true hr, ← Int.tmod_def, ← BitVec.toInt_srem, wrap32, BitVec.ofInt_toInt]
  rw [hword, BitVec.toInt_srem]

/-- Unsigned MOD by a nonzero divisor is the library's unsigned remainder (R145). -/
theorem modWord_false {r : Word} (hr : r ≠ 0) (l : Word) : modWord false l r = l % r := by
  rw [BitVec.umod_def, ← BitVec.ofInt_natCast]
  simp [modWord, toNat_ne_zero hr, wrap32]

/-- Signed MOD has the sign of the dividend, or is 0 (R145). -/
theorem modWord_true_sign (l r : Word) :
    (0 ≤ l.toInt → 0 ≤ (modWord true l r).toInt) ∧ (l.toInt < 0 → (modWord true l r).toInt ≤ 0) := by
  by_cases hr : r = 0
  · subst hr
    rw [modWord_zero]
    exact ⟨fun _ => le_rfl, fun _ => le_rfl⟩
  · rw [modWord_true_toInt hr]
    refine ⟨Int.tmod_nonneg _, fun hl => ?_⟩
    have hneg := Int.tmod_nonneg r.toInt (neg_nonneg.mpr hl.le)
    rw [Int.neg_tmod] at hneg
    omega

/-- MOD completes DIV (R145): `wrap32` is a ring homomorphism, so the signed identity is the integers', and the unsigned one
is that of the natural numbers. -/
theorem mul_divWord_add_modWord (signed : Bool) {r : Word} (hr : r ≠ 0) (l : Word) :
    r * divWord signed l r + modWord signed l r = l := by
  cases signed with
  | true =>
    calc r * divWord true l r + modWord true l r
        = wrap32 (r.toInt * l.toInt.tdiv r.toInt + (l.toInt - r.toInt * l.toInt.tdiv r.toInt)) := by
          rw [divWord_true hr, modWord_true hr, wrap32, wrap32, wrap32, BitVec.ofInt_add, BitVec.ofInt_mul,
            BitVec.ofInt_toInt]
      _ = wrap32 l.toInt := by rw [add_sub_cancel]
      _ = l := BitVec.ofInt_toInt
  | false =>
    apply BitVec.eq_of_toNat_eq
    rw [divWord_false hr, modWord_false hr, BitVec.toNat_add, BitVec.toNat_mul, BitVec.toNat_udiv, BitVec.toNat_umod,
      Nat.mod_add_mod, Nat.div_add_mod, Nat.mod_eq_of_lt l.isLt]

/-- Settles O33: MOD is the remainder of DIV's quotient, signed and unsigned. -/
theorem modTakesTheDividendsSign : Obligations.ModTakesTheDividendsSign := by
  refine ⟨decodeWord_binary 0x4 _ rfl, computesBinary_of_operation rfl, fun l r => ?_⟩
  obtain ⟨hpos, hneg⟩ := modWord_true_sign l r
  refine ⟨?_, fun hr => modWord_true_toInt hr l, hpos, hneg, fun hr => ?_,
    fun signed hr => (mul_divWord_add_modWord signed hr l).symm⟩
  · rintro rfl
    exact ⟨modWord_zero true l, modWord_zero false l⟩
  · rw [modWord_false hr, BitVec.toNat_umod]

/-! ### AND, OR, XOR -/

/-- Settles O34: the three functions are the bit-vector operations, read bit by bit. -/
theorem andOrXorAreBitwise : Obligations.AndOrXorAreBitwise :=
  ⟨decodeWord_binary 0x5 _ rfl, decodeWord_binary 0x6 _ rfl, decodeWord_binary 0x7 _ rfl, andWord, orWord, xorWord,
    computesBinary_of_operation rfl, computesBinary_of_operation rfl, computesBinary_of_operation rfl,
    fun _ _ _ _ => ⟨BitVec.getLsbD_and, BitVec.getLsbD_or, BitVec.getLsbD_xor⟩⟩

/-! ### SHL, SHR, SAR -/

/-- Multiplying by a power of two is a left shift (R149). -/
theorem wrap32_mul_two_pow (l : Word) (k : Nat) : wrap32 ((l.toNat : Int) * 2 ^ k) = l <<< k := by
  apply BitVec.eq_of_toNat_eq
  zify
  rw [wrap32_toNat_emod, BitVec.toNat_shiftLeft, Nat.shiftLeft_eq]
  norm_cast

/-- Dividing by a power of two is a logical right shift (R150). -/
theorem wrap32_div_two_pow (l : Word) (k : Nat) : wrap32 ((l.toNat / 2 ^ k : Nat) : Int) = l >>> k := by
  apply BitVec.eq_of_toNat_eq
  rw [wrap32, BitVec.ofInt_natCast, BitVec.toNat_ofNat, BitVec.toNat_ushiftRight, Nat.shiftRight_eq_div_pow]
  exact Nat.mod_eq_of_lt ((Nat.div_le_self _ _).trans_lt l.isLt)

/-- Dividing the signed view by a power of two, rounding down, is an arithmetic right shift (R151). -/
theorem wrap32_fdiv_two_pow (l : Word) (k : Nat) : wrap32 (l.toInt.fdiv (2 ^ k)) = l.sshiftRight k := by
  rw [Int.fdiv_eq_ediv_of_nonneg _ (by positivity), wrap32, BitVec.sshiftRight, Int.shiftRight_eq_div_pow]
  norm_cast

/-- An arithmetic right shift by 32 and more leaves the sign fill alone (R151). -/
theorem sshiftRight_of_le {k : Nat} (hk : 32 ≤ k) (l : Word) :
    l.sshiftRight k = if l.toInt < 0 then 0xFFFFFFFF else 0 := by
  apply BitVec.eq_of_getLsbD_eq
  intro i hi
  rw [BitVec.getLsbD_sshiftRight, if_neg (by omega), BitVec.msb_eq_toInt]
  split_ifs with hneg
  · have hones : (0xFFFFFFFF : Word) = BitVec.allOnes 32 := rfl
    rw [hones, BitVec.getLsbD_allOnes]
    simp [hneg, hi]
  · simp [hneg]

/-- The number of places a shift moves its left operand by; `masked` is SHIFT_MASKED (R149). -/
def shiftAmount (masked : Bool) (r : Word) : Nat := if masked then r.toNat % 32 else r.toNat

/-- A shift that gives `fill` for every amount of 32 and more is the shift by the amount, masked or not: the common shape of
the three functions. -/
theorem ite_shift_eq {shift : Nat → Word} {fill : Word} (hfill : ∀ k, 32 ≤ k → shift k = fill) (masked : Bool) (r : Word) :
    (if masked = false ∧ 32 ≤ r.toNat then fill else shift (r.toNat % 32)) = shift (shiftAmount masked r) := by
  cases masked with
  | true => simp [shiftAmount]
  | false =>
    rcases lt_or_ge r.toNat 32 with hlt | hge
    · simp [shiftAmount, Nat.mod_eq_of_lt hlt, Nat.not_le.mpr hlt]
    · simp [shiftAmount, hge, hfill]

theorem shlWord_eq (masked : Bool) (l r : Word) : shlWord masked l r = l <<< shiftAmount masked r := by
  rw [shlWord, wrap32_mul_two_pow]
  exact ite_shift_eq (fun _ hk => BitVec.shiftLeft_eq_zero hk) masked r

theorem shrWord_eq (masked : Bool) (l r : Word) : shrWord masked l r = l >>> shiftAmount masked r := by
  rw [shrWord, wrap32_div_two_pow]
  exact ite_shift_eq (fun _ hk => BitVec.ushiftRight_eq_zero hk) masked r

theorem sarWord_eq (masked : Bool) (l r : Word) : sarWord masked l r = l.sshiftRight (shiftAmount masked r) := by
  rw [sarWord, wrap32_fdiv_two_pow]
  exact ite_shift_eq (fun _ hk => sshiftRight_of_le hk l) masked r

/-- Settles O35: each function is the bit-vector shift by the amount, for both values of SHIFT_MASKED. -/
theorem shiftsMaskTheirAmount : Obligations.ShiftsMaskTheirAmount :=
  ⟨decodeWord_binary 0x8 _ rfl, decodeWord_binary 0x9 _ rfl, decodeWord_binary 0xA _ rfl, computesBinary_of_operation rfl,
    computesBinary_of_operation rfl, computesBinary_of_operation rfl,
    fun l r => ⟨shlWord_eq true l r, shrWord_eq true l r, sarWord_eq true l r,
      shlWord_eq false l r, shrWord_eq false l r, sarWord_eq false l r⟩⟩

/-! ### NEG, NOT -/

/-- Settles O37: NEG's row ignores the 24 low bits, and its function is `wrap32` of the negated signed view. -/
theorem negNegatesTheTop : Obligations.NegNegatesTheTop :=
  ⟨decodeWord_unary_append 0x0, ⟨negWord, computesUnary_of_operation rfl, fun _ => wrap32_toNat_emod _⟩,
    fun _ => unary_halts_on_empty rfl⟩

theorem notWord_getLsbD {i : Nat} (hi : i < 32) (x : Word) : (notWord x).getLsbD i = !x.getLsbD i := by
  rw [notWord, BitVec.getLsbD_not, decide_eq_true hi, Bool.true_and]

/-- Settles O38: NOT's row ignores the 24 low bits, and its function is the bit-vector complement. -/
theorem notComplementsTheTop : Obligations.NotComplementsTheTop :=
  ⟨decodeWord_unary_append 0x1,
    ⟨notWord, computesUnary_of_operation rfl, fun x => ⟨fun _ hi => notWord_getLsbD hi x, BitVec.toNat_not⟩⟩,
    fun _ => unary_halts_on_empty rfl⟩

end Machine
end Sys2Proof
end

section
/-! ## Control transfer: CALL, RET, GOTO and the conditional jumps (R170 to R186) -/

namespace Sys2Proof

/-- The number above both low fields of a word written field by field. -/
theorem toNat_append_append_div {n m k : Nat} (x : BitVec n) (f : BitVec m) (g : BitVec k) :
    (x ++ f ++ g).toNat / 2 ^ (k + m) = x.toNat := by
  rw [pow_add, ← Nat.div_div_eq_div_mul, toNat_append_div, toNat_append_div]

/-- A word of family 0x8 is read by the entry of its condition, whatever its low 25 bits (R71, R77). -/
theorem decodeWord_binaryJump_append (cond3 : BitVec 3) (low : BitVec 25) :
    decodeWord (0x8#4 ++ cond3 ++ low) = binaryJumpTable.get cond3.toFin (0x8#4 ++ cond3 ++ low) := by
  refine decodeWord_binaryJump cond3.toFin _ ?_
  rw [toNat_append_div, append_toNat]
  rfl

/-- A word of family 0x8 written with its offset field is read by the entry of its condition (R66, R71, R77). -/
theorem decodeWord_binaryJump_field (cond3 : BitVec 3) (f : BitVec 23) (g : BitVec 2) :
    decodeWord (0x8#4 ++ cond3 ++ f ++ g) = binaryJumpTable.get cond3.toFin (0x8#4 ++ cond3 ++ f ++ g) := by
  refine decodeWord_binaryJump cond3.toFin _ ((toNat_append_append_div (0x8#4 ++ cond3) f g).trans ?_)
  rw [append_toNat]
  rfl

/-- A word of family 0x9 written with its offset field is read by the entry of its selector (R65, R71, R77). -/
theorem decodeWord_unaryJump_field (sel2 : BitVec 2) (f : BitVec 24) (g : BitVec 2) :
    decodeWord (0x9#4 ++ sel2 ++ f ++ g) = unaryJumpTable.get sel2.toFin (0x9#4 ++ sel2 ++ f ++ g) := by
  refine decodeWord_unaryJump sel2.toFin _ ((toNat_append_append_div (0x9#4 ++ sel2) f g).trans ?_)
  rw [append_toNat]
  rfl

/-- The number of the middle field of a word written field by field. -/
theorem toNat_append_append_mod {n m k : Nat} (x : BitVec n) (f : BitVec m) (g : BitVec k) :
    (x ++ f ++ g).toNat / 2 ^ k % 2 ^ m = f.toNat := by
  rw [toNat_append_div, toNat_append_mod]

/-- The offset of a 23-bit field is 4 times its signed view, whatever lies above and below it (R66). -/
theorem offsetField_append_field23 (x : BitVec 7) (f : BitVec 23) (g : BitVec 2) :
    offsetField (x ++ f ++ g) 24 2 = 4 * f.toInt := by
  refine offsetField_eq (k := 23) rfl f ?_
  exact toNat_append_append_mod x f g

/-- The offset of a 24-bit field is 4 times its signed view, whatever lies above and below it (R65). -/
theorem offsetField_append_field24 (x : BitVec 6) (f : BitVec 24) (g : BitVec 2) :
    offsetField (x ++ f ++ g) 25 2 = 4 * f.toInt := by
  refine offsetField_eq (k := 24) rfl f ?_
  exact toNat_append_append_mod x f g

namespace Machine

open Sys2Proof.Claims

/-! ### CALL and GOTO -/

section

variable {s : State}

theorem State.call_of_lt (off : Int) (h : s.sp.toNat < 4) :
    s.call off = s.raise (.memFault .stackOverflow ((s.sp.toNat : Int) - 4)) := if_pos h

theorem State.call_of_le (off : Int) (h : 4 ≤ s.sp.toNat) : s.call off = (s.pushWord s.pc).redirect (s.pc0 + off) :=
  if_neg (Nat.not_lt.mpr h)

/-- Settles O39: CALL's row reads the 26-bit field; with room the middle state is the push of PC1, and the redirect follows. -/
theorem callPushesThenRedirects : Obligations.CallPushesThenRedirects := by
  intro f s
  refine ⟨fun g => ?_, fun hroom => ⟨_, exec_eq_run _ s, ?_⟩, fun hlow => ⟨_, exec_eq_run _ s, ?_⟩⟩
  · exact (decodeWord_append_field26 0x5 f g).trans (congrArg Instr.call (offsetField_append_field26 0x5 f g))
  · rw [State.call_of_le _ hroom]
    exact ⟨s.pushWord s.pc, pushes_pushWord s.pc hroom, redirectPrimitive _ _⟩
  · rw [State.call_of_lt _ hlow]
    exact halts_raise s _

/-- Settles O42: GOTO's row reads the 26-bit field, and its meaning is the redirect. -/
theorem gotoRedirects : Obligations.GotoRedirects := by
  intro f s
  refine ⟨fun g => ?_, _, exec_eq_run _ s, redirectPrimitive s _⟩
  exact (decodeWord_append_field26 0x7 f g).trans (congrArg Instr.goto (offsetField_append_field26 0x7 f g))

/-! ### RET -/

/-- Settles O40: RET's row reads the 28 low bits, and each case of RET is the one clause whose hypotheses it meets. -/
theorem retPopsThePc : Obligations.RetPopsThePc := by
  intro n s a ha
  have hdecode : decodeWord (0x6#4 ++ n) = .ret n.toNat :=
    (decodeWord_append_opcode 0x6 n).trans (congrArg Instr.ret (bits_append_low28 0x6 n))
  have hrun : exec (.ret n.toNat) s = .next (s.retWith true n.toNat) := exec_eq_run _ s
  refine ⟨hdecode, ?_⟩
  obtain ⟨hout, heq⟩ | ⟨hin, hbad, heq⟩ | ⟨hin, hgood, heq⟩ := s.retWith_cases n.toNat a ha <;> rw [heq] at hrun
  · exact ⟨fun _ => ⟨_, hrun, halts_raise s _⟩, by omega, by omega, s.retWith_false _⟩
  · exact ⟨by omega, fun _ _ => ⟨_, hrun, haltsWith_emit_raise s _ _⟩, by omega, s.retWith_false _⟩
  · have hsp : (BitVec.ofNat 32 (a + 4)).toNat = a + 4 := by
      rw [Config.N_eq] at hin
      rw [BitVec.toNat_ofNat]
      omega
    exact ⟨by omega, by omega, fun _ _ => ⟨_, hrun, hsp, rfl, fun _ => rfl, rfl, rfl, rfl⟩, s.retWith_false _⟩

/-- RET 0 with a whole word on the stack that is a target: the word is popped into PC (R171). -/
theorem State.retWith_zero (hin : s.sp.toNat + 4 ≤ Config.N) (htarget : s.popWord.1.toNat < Config.N) :
    s.retWith true 0 = s.popWord.2.setPc s.popWord.1 := by
  have hsp : BitVec.ofNat 32 (s.sp.toNat + 4) = s.sp + 4 := by
    rw [BitVec.ofNat_add, BitVec.ofNat_toNat, BitVec.setWidth_eq]
    rfl
  rw [State.popWord_word] at htarget
  obtain ⟨hout, -⟩ | ⟨-, hbad, -⟩ | ⟨-, -, heq⟩ := s.retWith_cases 0 s.sp.toNat rfl
  · omega
  · omega
  · rw [heq, hsp]
    rfl

/-- What holds of the state with the top word popped into PC holds after RET 0 (R171). -/
theorem ret_zero_completes (hin : s.sp.toNat + 4 ≤ Config.N) (htarget : s.popWord.1.toNat < Config.N) {P : State → Prop}
    (hP : P (s.popWord.2.setPc s.popWord.1)) : Completes (.ret 0) s P := by
  rw [← State.retWith_zero hin htarget] at hP
  exact ⟨_, exec_eq_run _ s, hP⟩

/-- Settles O41: RET 0 finds on top the PC1 that CALL pushed, and its pop undoes the push. -/
theorem retReturnsAfterTheCall : Obligations.RetReturnsAfterTheCall := by
  intro off s hroom hspN hpcN hlo hhi
  have hcall : exec (.call off) s = .next ((s.pushWord s.pc).setPc (wrap32 (s.pc0 + off))) := by
    obtain ⟨hout, -⟩ | ⟨-, -, hjump⟩ := (s.pushWord s.pc).redirect_cases (s.pc0 + off)
    · omega
    · rw [← hjump, ← State.call_of_le off hroom]
      exact exec_eq_run _ s
  obtain ⟨htop, hlevel⟩ := popUndoesPush s s.pc hroom
  rw [State.push_of_le s.pc hroom] at htop hlevel
  have hslot : (s.pushWord s.pc).sp.toNat + 4 ≤ Config.N := by
    rw [State.pushWord_sp, State.sp_sub_toNat hroom]
    omega
  have htarget : (s.pushWord s.pc).popWord.1.toNat < Config.N := by rwa [htop]
  have hN := Config.N_eq
  refine ⟨_, hcall, wrap32_toNat hlo (by omega), fun v => ret_zero_completes ?_ ?_ ?_⟩
  · exact hslot
  · exact htarget
  · exact ⟨htop, hlevel, rfl⟩

end

/-! ### The common parts of the conditional jumps -/

section CommonParts

variable {s : State} {cond : Word → Word → Bool} {off : Int}

/-- No right operand: the fault names SP (R173). -/
theorem State.binaryJump_of_empty (hempty : s.sp.toNat + 4 > Config.N) :
    s.binaryJump cond off = s.raise (.memFault .stackUnderflow s.sp.toNat) := if_pos hempty

/-- A condition that holds redirects to `PC0 + off` (R173). -/
theorem State.binaryJump_of_taken (hroom : s.sp.toNat + 4 ≤ Config.N) (hcond : cond s.peekLeft s.peekTop = true) :
    s.binaryJump cond off = s.redirect (s.pc0 + off) := by
  rw [State.binaryJump, if_neg (Nat.not_lt.mpr hroom), if_pos hcond]

/-- A condition that does not hold leaves the state, and the target is not looked at (R173). -/
theorem State.binaryJump_of_untaken (hroom : s.sp.toNat + 4 ≤ Config.N) (hcond : ¬ cond s.peekLeft s.peekTop = true) :
    s.binaryJump cond off = s := by
  rw [State.binaryJump, if_neg (Nat.not_lt.mpr hroom), if_neg hcond]

/-- A unary jump is a binary one whose condition does not look at the left operand (R173, R181). -/
theorem State.unaryJump_eq_binaryJump (s : State) (cond : Word → Bool) (off : Int) :
    s.unaryJump cond off = s.binaryJump (fun _ r => cond r) off := rfl

/-- The three outcomes of a conditional jump, with its condition told as a proposition (R173, R181). -/
theorem jump_outcomes {i : Instr} {C : Prop} (hrun : exec i s = .next (s.binaryJump cond off))
    (hC : cond s.peekLeft s.peekTop = true ↔ C) :
    (s.sp.toNat + 4 > Config.N → Completes i s fun t => Halts s t (.memFault .stackUnderflow s.sp.toNat)) ∧
    (s.sp.toNat + 4 ≤ Config.N → C → Completes i s fun t => RedirectsTo s t (s.pc0 + off)) ∧
    (s.sp.toNat + 4 ≤ Config.N → ¬ C → Completes i s fun t => t.pc = s.pc ∧ OnlyPcMoves s t) := by
  refine ⟨fun hempty => ?_, fun hroom htaken => ?_, fun hroom huntaken => ?_⟩
  · rw [State.binaryJump_of_empty hempty] at hrun
    exact ⟨_, hrun, halts_raise s _⟩
  · rw [State.binaryJump_of_taken hroom (hC.mpr htaken)] at hrun
    exact ⟨_, hrun, redirectPrimitive s _⟩
  · rw [State.binaryJump_of_untaken hroom (hC.not.mpr huntaken)] at hrun
    exact ⟨s, hrun, rfl, rfl, fun _ => rfl, rfl, rfl, rfl⟩

/-- An instruction of family 0x8 that runs the jump of `cond` jumps on the two peeked words (R173). -/
theorem jumpsOnTwo_of_operation {cond3 : BitVec 3} {i : Int → Instr} {C : Word → Word → Prop}
    (hentry : ∀ w, binaryJumpTable.get cond3.toFin w = i (offsetField w 24 2))
    (hop : ∀ off, operation (i off) = .jumpOnTwo cond off) (hC : ∀ l r, cond l r = true ↔ C l r) :
    JumpsOnTwo cond3 i C := by
  intro f s
  refine ⟨fun g => ?_, jump_outcomes (by rw [exec_eq_run, hop]; rfl) (hC s.peekLeft s.peekTop)⟩
  rw [decodeWord_binaryJump_field, hentry, offsetField_append_field23]

/-- An instruction of family 0x9 that runs the jump of `cond` jumps on the peeked top word (R181). -/
theorem jumpsOnOne_of_operation {sel2 : BitVec 2} {i : Int → Instr} {cond : Word → Bool} {C : Word → Prop}
    (hentry : ∀ w, unaryJumpTable.get sel2.toFin w = i (offsetField w 25 2))
    (hop : ∀ off, operation (i off) = .jumpOnOne cond off) (hC : ∀ x, cond x = true ↔ C x) :
    JumpsOnOne sel2 i C := by
  intro f s
  have hrun : exec (i (4 * f.toInt)) s = .next (s.binaryJump (fun _ r => cond r) (4 * f.toInt)) := by
    rw [exec_eq_run, hop, ← State.unaryJump_eq_binaryJump]
    rfl
  refine ⟨fun g => ?_, jump_outcomes hrun (hC s.peekTop)⟩
  rw [decodeWord_unaryJump_field, hentry, offsetField_append_field24]

end CommonParts

/-! ### The conditions -/

/-- Settles O43: the two conditions decide the equality of the words. -/
theorem equalityJumps : Obligations.EqualityJumps :=
  ⟨jumpsOnTwo_of_operation (cond := condEq) (fun _ => rfl) (fun _ => rfl) fun _ _ => decide_eq_true_iff,
    jumpsOnTwo_of_operation (cond := condNe) (fun _ => rfl) (fun _ => rfl) fun _ _ => decide_eq_true_iff⟩

/-- Settles O44: CMP_SIGNED is on, and each condition decides the order of the views it is given. -/
theorem orderJumpsAreSigned : Obligations.OrderJumpsAreSigned :=
  ⟨jumpsOnTwo_of_operation (cond := condLt true) (fun _ => rfl) (fun _ => rfl) fun _ _ => decide_eq_true_iff,
    jumpsOnTwo_of_operation (cond := condGt true) (fun _ => rfl) (fun _ => rfl) fun _ _ => decide_eq_true_iff,
    jumpsOnTwo_of_operation (cond := condLe true) (fun _ => rfl) (fun _ => rfl) fun _ _ => decide_eq_true_iff,
    jumpsOnTwo_of_operation (cond := condGe true) (fun _ => rfl) (fun _ => rfl) fun _ _ => decide_eq_true_iff,
    fun _ _ => ⟨decide_eq_true_iff, decide_eq_true_iff, decide_eq_true_iff, decide_eq_true_iff⟩⟩

/-- Bit 31 is the sign of the signed view (R7). -/
theorem toInt_neg_iff_getLsbD (x : Word) : x.toInt < 0 ↔ x.getLsbD 31 = true := by
  rw [← decide_eq_true_iff (p := x.toInt < 0), ← BitVec.msb_eq_toInt, BitVec.msb_eq_getLsbD_last]

theorem condNeg_iff (x : Word) : condNeg x = true ↔ x.getLsbD 31 = true := by
  rw [condNeg, decide_eq_true_iff, toInt_neg_iff_getLsbD]

theorem condNonneg_iff (x : Word) : condNonneg x = true ↔ x.getLsbD 31 = false := by
  rw [condNonneg, decide_eq_true_iff, ge_iff_le, ← not_lt, toInt_neg_iff_getLsbD, Bool.not_eq_true]

/-- Settles O46: the first two conditions decide whether the word is 0, the last two are its sign, which is bit 31. -/
theorem unaryJumps : Obligations.UnaryJumps :=
  ⟨jumpsOnOne_of_operation (cond := condZero) (fun _ => rfl) (fun _ => rfl) fun _ => decide_eq_true_iff,
    jumpsOnOne_of_operation (cond := condNonzero) (fun _ => rfl) (fun _ => rfl) fun _ => decide_eq_true_iff,
    jumpsOnOne_of_operation (fun _ => rfl) (fun _ => rfl) condNeg_iff,
    jumpsOnOne_of_operation (fun _ => rfl) (fun _ => rfl) condNonneg_iff⟩

/-! ### The undefined conditions -/

/-- The condition codes that R77 leaves undefined. -/
abbrev undefinedConds : List (BitVec 3) := [6, 7]

theorem mem_undefinedConds : ∀ cond3 : BitVec 3, 6 ≤ cond3.toNat → cond3 ∈ undefinedConds := by decide

/-- The instruction the table holds for an undefined condition runs the jump that is never taken (R180). -/
theorem operation_binaryJumpTable_undefined {cond3 : BitVec 3} (hcond : cond3 ∈ undefinedConds) (w : Word) :
    operation (binaryJumpTable.get cond3.toFin w) = .jumpOnTwo condUndefined 0 := by
  fin_cases hcond <;> rfl

/-- Settles O45: both table entries run the binary jump whose condition is false, so an empty stack faults and nothing else
happens. -/
theorem undefinedConditionsNeverJump : Obligations.UndefinedConditionsNeverJump := by
  intro cond3 low s hcond
  have hrun : exec (decodeWord (0x8#4 ++ cond3 ++ low)) s = .next (s.binaryJump condUndefined 0) := by
    rw [exec_eq_run, decodeWord_binaryJump_append, operation_binaryJumpTable_undefined (mem_undefinedConds cond3 hcond)]
    rfl
  obtain ⟨hhalts, -, -⟩ := jump_outcomes hrun Iff.rfl
  refine ⟨hhalts, fun hroom => ?_⟩
  rw [hrun, State.binaryJump_of_untaken hroom Bool.false_ne_true]

end Machine
end Sys2Proof
end

section
/-! ## Output: PRINTS, PRINT.fmt and DUMP (R190 to R196) -/

namespace Sys2Proof

/-- A word of family 0xD written with its offset field is read by the entry of its format (R65, R71, R78). -/
theorem decodeWord_print_field (sel2 : BitVec 2) (f : BitVec 24) (g : BitVec 2) :
    decodeWord (0xD#4 ++ sel2 ++ f ++ g) = printTable.get sel2.toFin (0xD#4 ++ sel2 ++ f ++ g) := by
  refine decodeWord_print sel2.toFin _ ((toNat_append_append_div (0xD#4 ++ sel2) f g).trans ?_)
  rw [append_toNat]
  rfl

namespace Machine

open Sys2Proof.Claims

variable {s : State}

/-- Emitting events adds them to the trace and changes nothing else (R9, R26). -/
theorem onlyEmits_emit (s : State) (es : List Event) : OnlyEmits s (s.emit es) es s.host :=
  ⟨rfl, rfl, fun _ => rfl, rfl, rfl, rfl⟩

/-- The whole words from an address where one lies: that word, and those after it. -/
theorem wholeWords_succ {a : Nat} (ha : a + 4 ≤ Config.N) : (Config.N - a) / 4 = (Config.N - (a + 4)) / 4 + 1 := by omega

/-- No whole word lies at the top of memory or above it. -/
theorem wholeWords_zero {a : Nat} (ha : a + 4 > Config.N) : (Config.N - a) / 4 = 0 := by omega

/-! ### PRINTS -/

/-- What PRINTS emits of a string of bytes, byte by byte (R190). -/
theorem charsOf_cons (b : Byte) (bs : List Byte) :
    charsOf (b :: bs) = if b = 0x00 then [] else if b = 0x01 then charsOf bs else .char b :: charsOf bs := by
  split_ifs with h0 h1
  · rw [charsOf, List.takeWhile_cons_of_neg (by simp [h0])]
    rfl
  · rw [charsOf, List.takeWhile_cons_of_pos (by exact bne_iff_ne.mpr h0), List.filter_cons_of_neg (by simp [h1])]
    rfl
  · rw [charsOf, List.takeWhile_cons_of_pos (by exact bne_iff_ne.mpr h0), List.filter_cons_of_pos (by exact bne_iff_ne.mpr h1)]
    rfl

/-- The machine's events for a string of bytes are those of the statements' description (R190). -/
theorem printBytes_fst (bs : List Byte) : (printBytes bs).1 = charsOf bs := by
  induction bs with
  | nil => rfl
  | cons b bs ih =>
    rw [printBytes_cons, charsOf_cons, ← ih]
    split_ifs <;> rfl

/-- A print goes on with the next bytes where no 0x00 has ended it (R190). -/
theorem printBytes_append_fst (bs cs : List Byte) : (printBytes (bs ++ cs)).1 =
    if (printBytes bs).2 then (printBytes bs).1 else (printBytes bs).1 ++ (printBytes cs).1 := by
  induction bs with
  | nil => rfl
  | cons b bs ih =>
    rw [List.cons_append, printBytes_cons, printBytes_cons]
    by_cases h0 : b = 0x00
    · simp only [if_pos h0, if_true]
    · by_cases h1 : b = 0x01
      · simpa only [if_neg h0, if_pos h1] using ih
      · simp only [if_neg h0, if_neg h1, ih]
        split_ifs <;> rfl

theorem wholeWordBytesFrom_of_le (m : Memory) {a : Nat} (ha : a + 4 ≤ Config.N) :
    wholeWordBytesFrom m a = bytesOfWord (m.readWord a) ++ wholeWordBytesFrom m (a + 4) := by
  have hcount : 4 * ((Config.N - a) / 4) = 4 + 4 * ((Config.N - (a + 4)) / 4) := by rw [wholeWords_succ ha]; omega
  rw [wholeWordBytesFrom, hcount, List.range_add, List.map_append, List.map_map, Memory.bytesOfWord_readWord]
  simp only [wholeWordBytesFrom, Function.comp_def, Nat.add_assoc]
  rfl

theorem wholeWordBytesFrom_of_gt (m : Memory) {a : Nat} (ha : a + 4 > Config.N) : wholeWordBytesFrom m a = [] := by
  rw [wholeWordBytesFrom, wholeWords_zero ha]
  rfl

/-- PRINTS's loop prints the bytes of the whole words as one string, where its fuel covers the words (R190). -/
theorem printWords_eq_charsOf (m : Memory) {fuel a : Nat} (hfuel : (Config.N - a) / 4 ≤ fuel) :
    printWords m fuel a = charsOf (wholeWordBytesFrom m a) := by
  induction fuel generalizing a with
  | zero =>
    rw [wholeWordBytesFrom_of_gt m (by omega)]
    rfl
  | succ fuel ih =>
    rw [printWords_succ]
    split_ifs with htop hstop
    · rw [wholeWordBytesFrom_of_gt m htop]
      rfl
    · rw [wholeWordBytesFrom_of_le m (by omega), ← printBytes_fst, printBytes_append_fst, if_pos hstop]
    · rw [wholeWordBytesFrom_of_le m (by omega), ← printBytes_fst, printBytes_append_fst, if_neg hstop, ih (by omega),
        ← printBytes_fst (wholeWordBytesFrom m (a + 4))]

/-- Settles O48: PRINTS's row reads the 26-bit field, and a start address that is not negative emits what its loop prints. -/
theorem printsEmitsTheString : Obligations.PrintsEmitsTheString := by
  intro f s
  refine ⟨fun g => ?_, fun a haddr => ⟨_, exec_eq_run _ s, ?_⟩, fun hneg => ⟨_, exec_eq_run _ s, ?_⟩⟩
  · exact (decodeWord_append_field26 0x4 f g).trans (congrArg Instr.prints (offsetField_append_field26 0x4 f g))
  · have hrel : s.spRel (4 * f.toInt) = a := haddr.symm
    obtain ⟨hneg, -⟩ | ⟨-, heq⟩ := s.printString_cases (4 * f.toInt)
    · omega
    · rw [heq, hrel, Int.toNat_natCast, printWords_eq_charsOf s.mem (Nat.div_le_div_right (Nat.sub_le _ a))]
      exact onlyEmits_emit s _
  · obtain ⟨-, heq⟩ | ⟨hnonneg, -⟩ := s.printString_cases (4 * f.toInt)
    · rw [heq]
      exact halts_raise s _
    · exact absurd hneg (Int.not_lt.mpr hnonneg)

/-! ### PRINT.fmt -/

/-- The view an event of a number shows: signed in DEC alone (R191). -/
theorem NumFmt.shown_eq (fmt : NumFmt) (v : Word) : fmt.shown v = if fmt = .dec then v.toInt else (v.toNat : Int) := by
  cases fmt <;> rfl

section

variable {i : Instr} {fmt : NumFmt} {off : Int}

/-- Where a whole word lies at the address, it is emitted (R191). -/
theorem printNum_completes_emit (hop : operation i = .printNum fmt off) {a : Nat} (haddr : (a : Int) = s.spRel off)
    (ha : a + 4 ≤ Config.N) : Completes i s fun t => OnlyEmits s t [.num fmt (s.mem.readWord a)] s.host := by
  refine ⟨s.printNum fmt off, by rw [exec_eq_run, hop]; rfl, ?_⟩
  obtain ⟨-, heq⟩ | ⟨hout, -⟩ := s.printNum_cases fmt off
  · rw [heq, ← haddr, Int.toNat_natCast]
    exact onlyEmits_emit s _
  · exact absurd (inBounds_of_eq_natCast haddr ha) hout

/-- An address out of bounds faults (R191). -/
theorem printNum_completes_badAddress (hop : operation i = .printNum fmt off) (hout : ¬ inBounds (s.spRel off)) :
    Completes i s fun t => Halts s t (.memFault .badAddress (s.spRel off)) := by
  refine ⟨s.printNum fmt off, by rw [exec_eq_run, hop]; rfl, ?_⟩
  obtain ⟨hin, -⟩ | ⟨-, heq⟩ := s.printNum_cases fmt off
  · exact absurd hin hout
  · rw [heq]
    exact halts_raise s _

end

/-- The four PRINT.fmt: selector, instruction, format and base (R78, R192 to R195). -/
abbrev printInstrs : List (BitVec 2 × (Int → Instr) × NumFmt × Nat) :=
  [(0, .printDec, .dec, 10), (1, .printHex, .hex, 16), (2, .printBin, .bin, 2), (3, .printOct, .oct, 8)]

/-- Each selector's table entry runs the common part of PRINT.fmt under its format, which has the base (R78, R191). -/
theorem printInstrs_entry {p : BitVec 2 × (Int → Instr) × NumFmt × Nat} (hp : p ∈ printInstrs) :
    p.2.2.1.radix = p.2.2.2 ∧ (∀ w, printTable.get p.1.toFin w = p.2.1 (offsetField w 25 2)) ∧
      ∀ off, operation (p.2.1 off) = .printNum p.2.2.1 off := by
  fin_cases hp <;> exact ⟨rfl, fun _ => rfl, fun _ => rfl⟩

/-- Settles O49: every format's row reads the 24-bit field, and its two outcomes are those of the common part. -/
theorem printNumberEmitsTheWord : Obligations.PrintNumberEmitsTheWord := by
  intro p hp
  obtain ⟨hradix, hentry, hop⟩ := printInstrs_entry hp
  refine ⟨hradix, NumFmt.shown_eq _, fun f s => ⟨fun g => ?_, fun a => ?_, ?_⟩⟩
  · rw [decodeWord_print_field, hentry, offsetField_append_field24]
  · exact printNum_completes_emit (hop _)
  · exact printNum_completes_badAddress (hop _)

/-! ### DUMP -/

/-- DUMP on one more word of memory (R196). -/
theorem dumpWords_succ (m : Memory) (fuel a : Nat) : dumpWords m (fuel + 1) a =
    if a + 4 ≤ Config.N then .dumpLine a (m.readWord a) :: dumpWords m fuel (a + 4) else [] := rfl

/-- DUMP's loop lists the whole words from its address up, where its fuel covers them (R196). -/
theorem dumpWords_eq_map (m : Memory) {fuel a : Nat} (hfuel : (Config.N - a) / 4 ≤ fuel) :
    dumpWords m fuel a =
      (List.range ((Config.N - a) / 4)).map fun k => .dumpLine (a + 4 * k) (m.readWord (a + 4 * k)) := by
  induction fuel generalizing a with
  | zero =>
    rw [wholeWords_zero (by omega)]
    rfl
  | succ fuel ih =>
    rw [dumpWords_succ]
    split_ifs with hword
    · have hshift (k : Nat) : a + 4 * (k + 1) = a + 4 + 4 * k := by omega
      rw [wholeWords_succ hword, List.range_succ_eq_map, List.map_cons, List.map_map, ih (by omega)]
      simp only [Function.comp_def, Nat.succ_eq_add_one, hshift, Nat.mul_zero, Nat.add_zero]
    · rw [wholeWords_zero (by omega)]
      rfl

/-- Settles O50: DUMP's row has no field, and its meaning emits what its loop lists from SP up. -/
theorem dumpListsTheStack : Obligations.DumpListsTheStack := by
  intro s
  refine ⟨fun junk => decodeWord_append_opcode 0xE junk, _, exec_eq_run _ s, ?_⟩
  rw [dumpWords_eq_map s.mem (Nat.div_le_div_right (Nat.sub_le _ s.sp.toNat))]
  exact onlyEmits_emit s _

end Machine
end Sys2Proof
end

section
/-! ## How a step can end: STATUS kept, EXIT, or a precise halt, and what never halts (R205, R207, R208) -/

namespace Sys2Proof.Machine

open Sys2Proof.Claims

/-- STATUS is kept, or an instruction's halt is taken in place: PC, SP and memory are those of `s` (R205). -/
def KeepsOrHalts (s t : State) : Prop :=
  t.status = s.status ∨ ∃ cause es port, (∀ pc, cause ≠ .fetchBound pc) ∧ HaltsWith s t cause es port

variable {s : State}

/-! ### The shared operations -/

theorem keepsOrHalts_raise {cause : Cause} (hc : ∀ pc, cause ≠ .fetchBound pc) : KeepsOrHalts s (s.raise cause) :=
  .inr ⟨cause, _, _, hc, halts_raise s cause⟩

theorem keepsOrHalts_emit_raise {es : List Event} {cause : Cause} (hc : ∀ pc, cause ≠ .fetchBound pc) :
    KeepsOrHalts s ((s.emit es).raise cause) :=
  .inr ⟨cause, _, _, hc, haltsWith_emit_raise s es cause⟩

/-- A new port of the host is no part of what a halt must leave (R205). -/
theorem KeepsOrHalts.of_setHost {t : State} {port : HostPort} (h : KeepsOrHalts (s.setHost port) t) : KeepsOrHalts s t := h

theorem keepsOrHalts_push (v : Word) : KeepsOrHalts s (s.push v) := by
  obtain ⟨-, heq⟩ | ⟨-, heq⟩ := s.push_cases v <;> rw [heq]
  · exact keepsOrHalts_raise nofun
  · exact .inl rfl

theorem keepsOrHalts_redirect (target : Int) : KeepsOrHalts s (s.redirect target) := by
  obtain ⟨-, heq⟩ | ⟨-, -, heq⟩ := s.redirect_cases target <;> rw [heq]
  · exact keepsOrHalts_emit_raise nofun
  · exact .inl rfl

theorem keepsOrHalts_takeWord (v : Word) : KeepsOrHalts s (s.takeWord v) := by
  obtain ⟨-, heq⟩ | ⟨-, heq⟩ := (s.emit [.prompt, .inWord v]).push_cases v <;> rw [State.takeWord, heq]
  · exact keepsOrHalts_emit_raise nofun
  · exact .inl rfl

/-- STINPUT tests for room before its first push, so its halt has pushed nothing (R114, R205). -/
theorem keepsOrHalts_takeLine (max : Nat) (line : List Byte) : KeepsOrHalts s (s.takeLine max line) := by
  obtain ⟨-, heq⟩ | ⟨hroom, -⟩ := s.takeLine_cases max line
  · rw [heq]
    exact keepsOrHalts_emit_raise nofun
  · obtain ⟨-, hstatus, -⟩ := State.takeLine_frame hroom
    exact .inl hstatus

theorem keepsOrHalts_binaryOp (f : Word → Word → Word) : KeepsOrHalts s (s.binaryOp f) := by
  obtain ⟨-, heq⟩ | ⟨-, -, heq⟩ | ⟨-, heq⟩ := s.binaryOp_cases f <;> rw [heq]
  · exact keepsOrHalts_raise nofun
  · exact keepsOrHalts_raise nofun
  · exact .inl rfl

theorem keepsOrHalts_unaryOp (g : Word → Word) : KeepsOrHalts s (s.unaryOp g) := by
  obtain ⟨-, heq⟩ | ⟨-, heq⟩ := s.unaryOp_cases g <;> rw [heq]
  · exact keepsOrHalts_raise nofun
  · exact .inl rfl

/-- RET tests the popped target before it moves SP (R171, R205). -/
theorem keepsOrHalts_ret (count : Nat) : KeepsOrHalts s (s.retWith true count) := by
  obtain ⟨-, heq⟩ | ⟨-, -, heq⟩ | ⟨-, -, heq⟩ := s.retWith_cases count _ rfl <;> rw [heq]
  · exact keepsOrHalts_raise nofun
  · exact keepsOrHalts_emit_raise nofun
  · exact .inl rfl

theorem keepsOrHalts_binaryJump (cond : Word → Word → Bool) (off : Int) : KeepsOrHalts s (s.binaryJump cond off) := by
  obtain ⟨-, heq⟩ | ⟨-, -, heq⟩ | ⟨-, -, heq⟩ := s.binaryJump_cases cond off <;> rw [heq]
  · exact keepsOrHalts_raise nofun
  · exact keepsOrHalts_redirect _
  · exact .inl rfl

theorem keepsOrHalts_dup (off : Int) : KeepsOrHalts s (s.dupWith true off) := by
  obtain ⟨-, heq⟩ | ⟨-, heq⟩ := s.dupWith_cases off <;> rw [heq]
  · exact keepsOrHalts_push _
  · exact keepsOrHalts_raise nofun

theorem keepsOrHalts_printString (off : Int) : KeepsOrHalts s (s.printString off) := by
  obtain ⟨-, heq⟩ | ⟨-, heq⟩ := s.printString_cases off <;> rw [heq]
  · exact keepsOrHalts_raise nofun
  · exact .inl rfl

theorem keepsOrHalts_printNum (fmt : NumFmt) (off : Int) : KeepsOrHalts s (s.printNum fmt off) := by
  obtain ⟨-, heq⟩ | ⟨-, heq⟩ := s.printNum_cases fmt off <;> rw [heq]
  · exact .inl rfl
  · exact keepsOrHalts_raise nofun

@[simp] theorem State.swapWords_status (s : State) (a b : Int) : (s.swapWords a b).status = s.status := by
  obtain ⟨-, -, heq⟩ | ⟨-, heq⟩ := s.swapWords_cases a b <;> rw [heq]
  rfl

/-! ### The one inversion: how an operation can end -/

/-- The ends an operation has: EXIT's own, STATUS kept or a halt in place, and the jump fault of a CALL after its push. -/
inductive Operation.Ends : Operation → State → State → Prop
  | exit {s t : State} {code : Int} (hstatus : t.status = .exited code) : Ends (.exit code) s t
  | inPlace {op : Operation} {s t : State} (h : KeepsOrHalts s t) : Ends op s t
  | callFault {off : Int} {s t : State} {es : List Event} (hroom : 4 ≤ s.sp.toNat)
      (hfault : HaltsWith (s.pushWord s.pc) t (.jumpFault (s.pc0 + off)) es s.host) : Ends (.call off) s t

/-- CALL halts in place for want of room, and for its target only after the push (R170, R205). -/
theorem call_ends (off : Int) : (Operation.call off).Ends s (s.call off) := by
  obtain ⟨-, heq⟩ | ⟨hroom, heq⟩ := s.call_cases off
  · rw [heq]
    exact .inPlace (keepsOrHalts_raise nofun)
  · rw [heq]
    obtain ⟨-, hbad⟩ | ⟨-, -, hgood⟩ := (s.pushWord s.pc).redirect_cases (s.pc0 + off)
    · rw [hbad]
      exact .callFault hroom (haltsWith_emit_raise _ _ _)
    · rw [hgood]
      exact .inPlace (.inl rfl)

/-- How each of the twenty operations ends: a claim about a step that halts or exits is a case split on this. -/
theorem Operation.run_ends (op : Operation) : Ensures (op.Ends s) (op.run s) := by
  cases op with
  | exit code => exact .exit rfl
  | swap offA offB => exact .inPlace (.inl (s.swapWords_status _ _))
  | input => exact ensures_execInput fun v _ => .inPlace (keepsOrHalts_takeWord v).of_setHost
  | stinput max => exact ensures_stinputWith fun line _ => .inPlace (keepsOrHalts_takeLine max line).of_setHost
  | reserved sub => exact .inPlace (keepsOrHalts_raise nofun)
  | debug imm24 => exact .inPlace (.inl rfl)
  | pop count => exact .inPlace (.inl rfl)
  | binary f => exact .inPlace (keepsOrHalts_binaryOp f)
  | unary g => exact .inPlace (keepsOrHalts_unaryOp g)
  | nop => exact .inPlace (.inl rfl)
  | prints off => exact .inPlace (keepsOrHalts_printString off)
  | call off => exact call_ends off
  | ret count => exact .inPlace (keepsOrHalts_ret count)
  | goto off => exact .inPlace (keepsOrHalts_redirect _)
  | jumpOnTwo cond off => exact .inPlace (keepsOrHalts_binaryJump cond off)
  | jumpOnOne cond off => exact .inPlace (keepsOrHalts_binaryJump (fun _ r => cond r) off)
  | dup off => exact .inPlace (keepsOrHalts_dup off)
  | printNum fmt off => exact .inPlace (keepsOrHalts_printNum fmt off)
  | dump => exact .inPlace (.inl rfl)
  | push v => exact .inPlace (keepsOrHalts_push v)

/-- Only CALL runs the operation of CALL. -/
theorem eq_call_of_operation {i : Instr} {off : Int} (h : operation i = .call off) : i = .call off := by
  cases i <;> cases h; rfl

/-- Only EXIT runs the operation of EXIT. -/
theorem eq_exit_of_operation {i : Instr} {code : Int} (h : operation i = .exit code) : i = .exit code := by
  cases i <;> cases h; rfl

/-! ### Halts are precise -/

/-- The stack after a halt that follows a push is the stack of the push (R170, R205). -/
theorem haltsWith_pushWord_frame {t : State} {v : Word} {cause : Cause} {es : List Event} {port : HostPort}
    (hroom : 4 ≤ s.sp.toNat) (h : HaltsWith (s.pushWord v) t cause es port) :
    t.sp = s.sp - 4 ∧ t.mem.readWord (s.sp.toNat - 4) = v ∧ MemSameOutside s t (s.sp.toNat - 4) 4 := by
  obtain ⟨-, -, hsp, hmem, -, -⟩ := h
  obtain ⟨-, -, hword, hframe, -⟩ := pushes_pushWord v hroom
  refine ⟨hsp, ?_, fun x hx => (hmem x).trans (hframe x hx)⟩
  exact (Memory.readWord_congr fun x _ _ => hmem x).trans hword

/-- Settles O54: the pre-check halts at PC0, and of the ends of an operation only CALL's jump fault is not in place. -/
theorem haltsArePrecise : Obligations.HaltsArePrecise := by
  intro s t cause hrunning hstep hhalted
  obtain ⟨rfl, -⟩ | ⟨hpc, hrun⟩ := step_run_cases hstep
  · obtain rfl : .fetchBound s.pc = cause := Status.halted.inj hhalted
    exact .inl ⟨rfl, rfl, rfl, fun _ => rfl⟩
  · have hends := (Operation.run_ends _).of_eq_next hrun
    refine .inr ?_
    generalize hop : operation (decodeWord s.fetchedWord) = op at hends
    cases hends with
    | exit hexit => simp [hexit] at hhalted
    | inPlace h =>
      obtain hkept | ⟨c, _, _, hc, hstatus, hpc', hsp, hmem, -⟩ := h
      · simp [hkept, hrunning] at hhalted
      · obtain rfl : c = cause := Status.halted.inj (hstatus.symm.trans hhalted)
        exact ⟨hc, hpc', .inl ⟨hsp, hmem⟩⟩
    | @callFault off _ _ _ hroom hfault =>
      obtain ⟨hsp, hword, hframe⟩ := haltsWith_pushWord_frame hroom hfault
      obtain ⟨hstatus, hpc', -⟩ := hfault
      obtain rfl := Status.halted.inj (hstatus.symm.trans hhalted)
      exact ⟨nofun, hpc', .inr ⟨off, eq_call_of_operation hop, by rw [State.pc0_advance hpc], hsp, hword, hframe⟩⟩

/-! ### EXIT alone ends well -/

/-- The one end of an operation that sets `Exited` is EXIT's (R207). -/
theorem Operation.Ends.eq_exit {op : Operation} {t : State} {code : Int} (h : op.Ends s t) (hrunning : s.status = .running)
    (hexited : t.status = .exited code) : op = .exit code := by
  cases h with
  | exit hstatus => rw [Status.exited.inj (hstatus.symm.trans hexited)]
  | inPlace h =>
    obtain hkept | ⟨_, _, _, -, hstatus, -⟩ := h
    · simp [hkept, hrunning] at hexited
    · simp [hstatus] at hexited
  | callFault _ hfault =>
    obtain ⟨hstatus, -⟩ := hfault
    simp [hstatus] at hexited

/-- Settles O55: the pre-check's halt is no exit, and only the word EXIT runs the operation that ends so. -/
theorem onlyExitEndsWell : Obligations.OnlyExitEndsWell := by
  intro s t code hrunning hstep
  obtain ⟨rfl, hpc⟩ | ⟨hpc, hrun⟩ := step_run_cases hstep
  · exact iff_of_false nofun fun ⟨hfits, _⟩ => by omega
  · refine ⟨fun hexited => ⟨hpc, ?_⟩, fun ⟨_, hdecode⟩ => ?_⟩
    · have hends := (Operation.run_ends _).of_eq_next hrun
      exact eq_exit_of_operation (hends.eq_exit hrunning hexited)
    · rw [hdecode] at hrun
      cases hrun
      rfl

/-! ### What never halts -/

/-- An instruction completes with STATUS kept where its operation does. -/
theorem completes_status {i : Instr} {op : Operation} {t : State} (hop : operation i = op) (hrun : op.run s = .next t)
    (hstatus : t.status = s.status) : Completes i s fun t => t.status = s.status :=
  ⟨t, by rw [exec_eq_run, hop, hrun], hstatus⟩

/-- No unary operation halts where there is a word (R153, R157). -/
theorem State.unaryOp_status (g : Word → Word) (hroom : s.sp.toNat + 4 ≤ Config.N) :
    (s.unaryOp g).status = s.status := by
  obtain ⟨hempty, -⟩ | ⟨-, heq⟩ := s.unaryOp_cases g
  · omega
  · rw [heq]
    rfl

/-- No binary operation halts where there are two words (R140, R157). -/
theorem State.binaryOp_status (f : Word → Word → Word) (hroom : s.sp.toNat + 8 ≤ Config.N) :
    (s.binaryOp f).status = s.status := by
  obtain ⟨hempty, -⟩ | ⟨-, hleft, -⟩ | ⟨-, heq⟩ := s.binaryOp_cases f
  · omega
  · omega
  · rw [heq]
    rfl

/-- A start address that is not negative never halts PRINTS (R190). -/
theorem State.printString_status {off : Int} (haddr : 0 ≤ s.spRel off) : (s.printString off).status = s.status := by
  obtain ⟨hneg, -⟩ | ⟨-, heq⟩ := s.printString_cases off
  · omega
  · rw [heq]
    rfl

theorem State.redirect_status {target : Int} (hlo : 0 ≤ target) (hhi : target < Config.N) :
    (s.redirect target).status = s.status := by
  obtain ⟨hout, -⟩ | ⟨-, -, heq⟩ := s.redirect_cases target
  · omega
  · rw [heq]
    rfl

/-- A binary jump with a word on the stack halts for no reason but its target (R173). -/
theorem State.binaryJump_status (cond : Word → Word → Bool) {off : Int} (hroom : s.sp.toNat + 4 ≤ Config.N)
    (hlo : 0 ≤ s.pc0 + off) (hhi : s.pc0 + off < Config.N) : (s.binaryJump cond off).status = s.status := by
  obtain ⟨hempty, -⟩ | ⟨-, -, heq⟩ | ⟨-, -, heq⟩ := s.binaryJump_cases cond off
  · omega
  · rw [heq, State.redirect_status hlo hhi]
  · rw [heq]

/-- A missing left operand reads as 0 (R44, R173). -/
theorem State.peekLeft_of_missing (hleft : s.sp.toNat + 8 > Config.N) : s.peekLeft = 0 := if_neg (Nat.not_le.mpr hleft)

theorem condEq_zero (x : Word) : condEq 0 x = condZero x := by
  have hzero : (0 : Word) = x ↔ x.toNat = 0 := by rw [eq_comm, ← BitVec.toNat_inj]; rfl
  simp only [condEq, condZero, hzero]

theorem condNe_zero (x : Word) : condNe 0 x = condNonzero x := by
  have hne : condNe 0 x = !condEq 0 x := decide_not
  have hnonzero : condNonzero x = !condZero x := decide_not
  rw [hne, hnonzero, condEq_zero]

/-- With no left operand a binary jump is the unary jump of its condition at 0 (R173, R181). -/
theorem State.binaryJump_of_missing {cond : Word → Word → Bool} {cond0 : Word → Bool} (hcond : ∀ x, cond 0 x = cond0 x)
    (off : Int) (hleft : s.sp.toNat + 8 > Config.N) : s.binaryJump cond off = s.unaryJump cond0 off := by
  simp only [State.binaryJump, State.unaryJump, State.peekLeft_of_missing hleft, hcond]

theorem operation_of_mem_unrecognizedInstrs {i : Instr} (hi : i ∈ unrecognizedInstrs) : operation i = .nop := by
  fin_cases hi <;> rfl

/-- The six binary jumps with a defined condition at one offset (R174 to R179). -/
theorem operation_of_mem_binaryJumps {off : Int} {i : Instr}
    (hi : i ∈ [.jeq off, .jne off, .jlt off, .jgt off, .jle off, .jge off]) : ∃ cond, operation i = .jumpOnTwo cond off := by
  fin_cases hi <;> exact ⟨_, rfl⟩

/-- What needs no word on the stack keeps STATUS (R208). -/
theorem completes_status_of_no_operand {i : Instr}
    (hi : i ∈ [.nopA, .nopC, .dump] ∨ i ∈ unrecognizedInstrs ∨ (∃ n, i = .pop n) ∨ (∃ a b, i = .swap a b) ∨ ∃ k, i = .debug k) :
    Completes i s fun t => t.status = s.status := by
  obtain hlisted | hunrecognized | ⟨n, rfl⟩ | ⟨a, b, rfl⟩ | ⟨k, rfl⟩ := hi
  · fin_cases hlisted <;> exact completes_status rfl rfl rfl
  · exact completes_status (operation_of_mem_unrecognizedInstrs hunrecognized) rfl rfl
  · exact completes_status rfl rfl rfl
  · exact completes_status rfl rfl (s.swapWords_status _ _)
  · exact completes_status rfl rfl rfl

/-- What needs one word on the stack keeps STATUS where there is one (R208). -/
theorem completes_status_of_one_operand (hroom : s.sp.toNat + 4 ≤ Config.N) {i : Instr}
    (hi : i ∈ [.neg, .not, .jbUndefined6, .jbUndefined7]) : Completes i s fun t => t.status = s.status := by
  have hundefined : (s.binaryJump condUndefined 0).status = s.status := by
    rw [State.binaryJump_of_untaken hroom Bool.false_ne_true]
  fin_cases hi
  · exact completes_status rfl rfl (State.unaryOp_status negWord hroom)
  · exact completes_status rfl rfl (State.unaryOp_status notWord hroom)
  · exact completes_status rfl rfl hundefined
  · exact completes_status rfl rfl hundefined

/-- Settles O56: each group by the words its operation looks at; a missing left operand is the 0 that JZ and JNZ test for. -/
theorem lenientInstructionsNeverHalt : Obligations.LenientInstructionsNeverHalt := by
  refine fun s => ⟨fun i => completes_status_of_no_operand, fun hroom i => completes_status_of_one_operand hroom,
    fun hroom p hp => ?_, fun off haddr => completes_status rfl rfl (State.printString_status haddr),
    fun hroom off => ⟨fun hleft => ⟨?_, ?_⟩, fun hlo hhi i hi => ?_⟩⟩
  · obtain ⟨-, f, hop⟩ := binaryInstrs_entry hp
    exact completes_status hop rfl (State.binaryOp_status f hroom)
  · exact congrArg _ (State.binaryJump_of_missing condEq_zero off hleft)
  · exact congrArg _ (State.binaryJump_of_missing condNe_zero off hleft)
  · obtain ⟨cond, hop⟩ := operation_of_mem_binaryJumps hi
    exact completes_status hop rfl (State.binaryJump_status cond hroom hlo hhi)

end Sys2Proof.Machine
end

section
/-! ## The loader's checks and its image (R220 to R223) -/

namespace Sys2Proof.Machine

/-- The marker check comes first (R221). -/
theorem Loader.load_of_take_ne_marker {file : List Byte} (h : file.take 4 ≠ Loader.marker) :
    Loader.load file = .error .invalidFormat :=
  if_neg h

/-- Behind the marker the size of the body decides alone (R222, R223). -/
theorem Loader.load_marker_append (body : List Byte) : Loader.load (Loader.marker ++ body) =
    if body.length > Config.N then .error .programTooLarge else .ok (State.loaded body) :=
  if_pos rfl

theorem Loader.load_marker_append_of_gt {body : List Byte} (h : Config.N < body.length) :
    Loader.load (Loader.marker ++ body) = .error .programTooLarge :=
  (Loader.load_marker_append body).trans (if_pos h)

theorem Loader.load_marker_append_of_le {body : List Byte} (h : body.length ≤ Config.N) :
    Loader.load (Loader.marker ++ body) = .ok (State.loaded body) :=
  (Loader.load_marker_append body).trans (if_neg (Nat.not_lt.mpr h))

/-- The body lies in file order from offset 0, and zeros above it (R223). -/
theorem State.loaded_mem_read (body : List Byte) (a : Nat) : (State.loaded body).mem.read a = body.getD a 0x00 := by
  rw [State.loaded, State.setMem_mem, Memory.read_ofBytes, if_pos (Nat.zero_le a), Nat.sub_zero, Memory.unlisted]

/-- Settles O9: the two refusals, and the registers of the reset state around the image of a body that fits. -/
theorem loaderBuildsTheImage : Obligations.LoaderBuildsTheImage := by
  refine fun file => ⟨fun _ hmarker => Loader.load_of_take_ne_marker hmarker, ?_, ?_⟩
  · rintro body rfl hlarge
    exact Loader.load_marker_append_of_gt hlarge
  · rintro body rfl hfits
    obtain ⟨hpc, hsp, hstatus, htrace, -⟩ := resetStateIsAsStated
    obtain ⟨-, -, hmem, -⟩ := State.loaded_inv hfits
    exact ⟨_, Loader.load_marker_append_of_le hfits, hpc, hsp, hstatus, htrace, hmem, State.loaded_mem_read body⟩

end Sys2Proof.Machine
end

section
/-! ## A host that never answers: INPUT and STINPUT block (R230) -/

namespace Sys2Proof.Machine

variable {s : State}

theorem execInput_of_silent (h : s.host.nextWord = none) : execInput s = .fault .hostSilent := by
  simp only [execInput, h]

theorem stinputWith_of_silent (max : Nat) (h : s.host.nextLine = none) :
    stinputWith true max s = .fault .hostSilent := by
  simp only [stinputWith, h, if_true]

/-- An answered INPUT completes, so only silence blocks it (R113, R230). -/
theorem execInput_eq_hostSilent_iff : execInput s = .fault .hostSilent ↔ s.host.nextWord = none := by
  refine ⟨fun hblocked => ?_, execInput_of_silent⟩
  rcases hanswer : s.host.nextWord with _ | ⟨v, port⟩
  · rfl
  · rw [execInput_of_nextWord hanswer] at hblocked
    cases hblocked

/-- An answered STINPUT completes, so only silence blocks it (R114, R230). -/
theorem stinputWith_eq_hostSilent_iff {max : Nat} :
    stinputWith true max s = .fault .hostSilent ↔ s.host.nextLine = none := by
  refine ⟨fun hblocked => ?_, stinputWith_of_silent max⟩
  rcases hanswer : s.host.nextLine with _ | ⟨line, port⟩
  · rfl
  · rw [stinputWith_of_nextLine max hanswer] at hblocked
    cases hblocked

/-- Settles O23: the operation of each of the two blocks exactly on the port that answers `none`. -/
theorem inputBlocksExactlyWithoutAnswer : Obligations.InputBlocksExactlyWithoutAnswer := by
  refine fun max s => ⟨?_, ?_⟩
  · rw [exec_eq_run]
    exact execInput_eq_hostSilent_iff
  · rw [exec_eq_run]
    exact stinputWith_eq_hostSilent_iff

end Sys2Proof.Machine
end
